-- ==== Sys2Proof/Word.lean ====
section
/-! DEFINITION. The word types of QDEC (spec/10_state.md R20, spec/30_encoding.md R70). -/

namespace Sys2Proof

/-- A command word `CW` of `CMD_W = 68` bits (R70). -/
abbrev CommandWord := BitVec 68

/-- The operand bus `cmd_arg[63:0]`, and the response bus `rsp_data[63:0]` (R70, R72). -/
abbrev Word64 := BitVec 64

/-- A number of milliseconds, `TIME_W = 64` bits, unsigned (R29, R31, R77). -/
abbrev Millis := BitVec 64

/-- A binary32 pattern (R26, R76, R131). -/
abbrev F32 := BitVec 32

/-- A phase sample `{a, b}`: bit 1 is phase A, bit 0 is phase B (R15, R55). -/
abbrev Sample := BitVec 2

end Sys2Proof
end

