-- ==== Sys2Proof/Syntax.lean ====
section
/-! DEFINITION. The thirteen commands of QDEC (spec/30_encoding.md R74), one constructor per row of
spec/opcode_table.json. -/

namespace Sys2Proof

/-- A command. The operand of SETSENS is the raw field `mag`, all eight values of which match the row (R88); R81
refuses six of them when the command is issued. The pin levels UPDATE and TUPDATE sample are not part of the
command (R86). -/
inductive Instr where
  /-- R100, opcode `0x0`, format N. -/
  | construct
  /-- R103, opcode `0x1`, format N. -/
  | update
  /-- R102, opcode `0x2`, format S: `mag = CW[2:0]` (R75). -/
  | setsens (mag : BitVec 3)
  /-- R110, opcode `0x3`, format N. -/
  | getdir
  /-- R111, opcode `0x4`, format N. -/
  | borrowpins
  /-- R112, opcode `0x5`, format N. -/
  | release
  /-- R147, opcode `0x6`, format N. -/
  | borrowinner
  /-- R134, opcode `0x8`, format T: the timestamp (R77). -/
  | tupdate (t : Millis)
  /-- R139, opcode `0x9`, format N. -/
  | decay
  /-- R142, opcode `0xA`, format F: a binary32 pattern (R76). -/
  | setinc (f : F32)
  /-- R143, opcode `0xB`, format F. -/
  | setdec (f : F32)
  /-- R144, opcode `0xC`, format T: the action window (R77). -/
  | setwin (ms : Millis)
  /-- R146, opcode `0xD`, format N. -/
  | getvel
deriving DecidableEq, Repr

/-- The spec's mnemonic of each command (R74). -/
def Instr.mnemonic : Instr → String
  | .construct => "CONSTRUCT"
  | .update => "UPDATE"
  | .setsens _ => "SETSENS"
  | .getdir => "GETDIR"
  | .borrowpins => "BORROWPINS"
  | .release => "RELEASE"
  | .borrowinner => "BORROWINNER"
  | .tupdate _ => "TUPDATE"
  | .decay => "DECAY"
  | .setinc _ => "SETINC"
  | .setdec _ => "SETDEC"
  | .setwin _ => "SETWIN"
  | .getvel => "GETVEL"

/-- Why a command word spells no command (R79, R80). -/
inductive DecodeError where
  /-- R79: opcode `0x7`, `0xE` or `0xF`. -/
  | illegalOpcode
  /-- R80: a must-be-0 field of the format is not zero. -/
  | reservedBits
deriving DecidableEq, Repr

end Sys2Proof
end

