-- ==== Sys2Proof/WellFormed.lean ====
section
/-! DEFINITION. Which commands the spec gives a meaning: the one operand the spec restricts is the sensitivity
magnitude (spec/30_encoding.md R75, R81). Formats N, F and T admit every operand (R76, R77, R78). -/

namespace Sys2Proof

/-- R75, R81: the sensitivity magnitude is 2 (Default) or 4 (Low). -/
def legalMagnitude (mag : BitVec 3) : Bool :=
  mag == 2 || mag == 4

/-- The check of a command as syntax: R81 for SETSENS, nothing for the others. -/
def Instr.wellFormed : Instr → Bool
  | .setsens mag => legalMagnitude mag
  | .construct => true
  | .update => true
  | .getdir => true
  | .borrowpins => true
  | .release => true
  | .borrowinner => true
  | .tupdate _ => true
  | .decay => true
  | .setinc _ => true
  | .setdec _ => true
  | .setwin _ => true
  | .getvel => true

/-- R74, R82 (2): the seven commands of unit VT. -/
def Instr.needsVelocity : Instr → Bool
  | .borrowinner => true
  | .tupdate _ => true
  | .decay => true
  | .setinc _ => true
  | .setdec _ => true
  | .setwin _ => true
  | .getvel => true
  | .construct => false
  | .update => false
  | .setsens _ => false
  | .getdir => false
  | .borrowpins => false
  | .release => false

end Sys2Proof
end

