-- ==== Sys2Proof/Decode.lean ====
section
/-! DEFINITION. Decoding and encoding of the 68-bit command word (spec/30_encoding.md R70, R74 to R83, R88). A word is
presented whole (R70), so there is no byte order and no second word (R83). -/

namespace Sys2Proof

/-- R70: `cmd_op[3:0] = CW[67:64]`. -/
def opcodeOf (w : CommandWord) : BitVec 4 :=
  w.extractLsb' 64 4

/-- R70: `cmd_arg[63:0] = CW[63:0]`. -/
def operandOf (w : CommandWord) : Word64 :=
  w.extractLsb' 0 64

/-- Format N (R78): no operand, `CW[63:0]` must be 0 (R80). -/
def decodeN (i : Instr) (arg : Word64) : Except DecodeError Instr :=
  if arg = 0 then .ok i else .error .reservedBits

/-- Format S (R75): `mag = CW[2:0]`, `CW[63:3]` must be 0 (R80). -/
def decodeS (mk : BitVec 3 → Instr) (arg : Word64) : Except DecodeError Instr :=
  if arg.extractLsb' 3 61 = 0 then .ok (mk (arg.extractLsb' 0 3)) else .error .reservedBits

/-- Format F (R76): `f = CW[31:0]`, `CW[63:32]` must be 0 (R80). -/
def decodeF (mk : F32 → Instr) (arg : Word64) : Except DecodeError Instr :=
  if arg.extractLsb' 32 32 = 0 then .ok (mk (arg.extractLsb' 0 32)) else .error .reservedBits

/-- Format T (R77): `t = CW[63:0]`, no must-be-0 field (R80). -/
def decodeT (mk : Millis → Instr) (arg : Word64) : Except DecodeError Instr :=
  .ok (mk arg)

/-- The opcode map of R74; opcodes `0x7`, `0xE`, `0xF` are reserved (R79). Total: every word is a command or is
rejected by name. -/
def decode (w : CommandWord) : Except DecodeError Instr :=
  match (opcodeOf w).toNat with
  | 0x0 => decodeN .construct (operandOf w)
  | 0x1 => decodeN .update (operandOf w)
  | 0x2 => decodeS .setsens (operandOf w)
  | 0x3 => decodeN .getdir (operandOf w)
  | 0x4 => decodeN .borrowpins (operandOf w)
  | 0x5 => decodeN .release (operandOf w)
  | 0x6 => decodeN .borrowinner (operandOf w)
  | 0x8 => decodeT .tupdate (operandOf w)
  | 0x9 => decodeN .decay (operandOf w)
  | 0xA => decodeF .setinc (operandOf w)
  | 0xB => decodeF .setdec (operandOf w)
  | 0xC => decodeT .setwin (operandOf w)
  | 0xD => decodeN .getvel (operandOf w)
  | _ => .error .illegalOpcode

/-- The opcode column of R74. -/
def Instr.opcode : Instr → BitVec 4
  | .construct => 0x0
  | .update => 0x1
  | .setsens _ => 0x2
  | .getdir => 0x3
  | .borrowpins => 0x4
  | .release => 0x5
  | .borrowinner => 0x6
  | .tupdate _ => 0x8
  | .decay => 0x9
  | .setinc _ => 0xA
  | .setdec _ => 0xB
  | .setwin _ => 0xC
  | .getvel => 0xD

/-- The operand field `CW[63:0]` of a command: the format tables of R74 and R75 to R78. -/
def Instr.operand : Instr → Word64
  | .construct => 0
  | .update => 0
  | .setsens mag => mag.setWidth 64
  | .getdir => 0
  | .borrowpins => 0
  | .release => 0
  | .borrowinner => 0
  | .tupdate t => t
  | .decay => 0
  | .setinc f => f.setWidth 64
  | .setdec f => f.setWidth 64
  | .setwin ms => ms
  | .getvel => 0

/-- The command word of a command: opcode above operand (R70). -/
def encode (i : Instr) : CommandWord :=
  i.opcode ++ i.operand

/-- The number the host numbers a table word by, as a command word: its low `nbits` bits, bits above them 0.
A number of more than 68 bits is no command word (R70). -/
def tableWord (nbits w : Nat) : Option CommandWord :=
  if w % 2 ^ nbits < 2 ^ 68 then some (BitVec.ofNat 68 (w % 2 ^ nbits)) else none

/-- The command the decoder reads from a table word (fixed name of the host's interface). -/
def decodeTableWord (nbits w : Nat) : Option Instr :=
  match tableWord nbits w with
  | some cw => (decode cw).toOption
  | none => none

/-- R82 (2): the opcodes of unit VT, `0x6`, `0x8` to `0xD`. -/
def velocityOpcode (w : CommandWord) : Bool :=
  [0x6, 0x8, 0x9, 0xA, 0xB, 0xC, 0xD].contains (opcodeOf w).toNat

end Sys2Proof
end

