-- ==== Sys2Proof/Config.lean ====
section
/-! DEFINITION. What is fixed for one QDEC (the parameters of spec/00_scope.md R8 that the spec leaves open) and the
model's free values (spec/00_scope.md R12 `any_f32()`). The parameters with a decided value (`ACC_W`, `FLOAT`,
`TIME_W`, `CMD_W`) are the widths of the types; `LAT` is timing and no rule depends on it (R214). -/

namespace Sys2Proof

/-- The parameters of one QDEC. A `Config` stands in the state as a constant: no step writes it. -/
structure Config where
  /-- `HAS_VELOCITY` (R3, R8): whether unit VT is present. OPEN in the spec: an argument of the model. -/
  hasVelocity : Bool
  /-- Which column of R174's table the model takes for AccOverflow and TimeBackwards. `false`: "hardware does" (the
  wrap of R107, the modular difference of R138; the machine goes on). `true`: "model outcome" (a fault).
  DESIGN CHOICE (log entry 4): the spec says a model "may" fault there; both columns are modelled. -/
  strict : Bool
deriving DecidableEq, Repr

/-- The draw `any_f32()` of R12 and R140: the `n`-th free 32-bit value. It has no body, so nothing can be proved of
which value it is. The machine's counter `draws` supplies `n`. DESIGN CHOICE (log entry 5). -/
opaque Config.anyF32 : Nat → F32

end Sys2Proof
end

