-- ==== Sys2Proof/Machine/State.lean ====
section
/-! DEFINITION. The state of QDEC as plain data: the ten state elements of spec/10_state.md R20, the signals at its
ports, and the model's own bookkeeping; the reasons a step stops; the state after reset (R41). -/

namespace Sys2Proof.Machine

/-- Direction (R13, R23). Held as a closed enumeration: `2'b11` "is never written by any rule and never held". -/
inductive Direction where
  | none
  | clockwise
  | anticlockwise
deriving DecidableEq, Repr

/-- Sensitivity (R13, R24), "a closed enum" whose held form is its magnitude (R25). -/
inductive Sensitivity where
  | default
  | low
deriving DecidableEq, Repr

/-- The four pin inputs (R57): level and read-failed signal of phase A and phase B. -/
structure Pins where
  a : Bool
  aErr : Bool
  b : Bool
  bErr : Bool
deriving DecidableEq, Repr

/-- What the outside world does to the block next (R9, R200, R215). -/
inductive Input where
  /-- The host issues the command word `cw` (R70) while the pins show `pins` (R57, R58). -/
  | command (cw : CommandWord) (pins : Pins)
  /-- `rst` is asserted and released (R200). -/
  | reset
deriving DecidableEq, Repr

/-- The machine. The first ten fields are the state elements of R20; the next four are the block's ports as its
environment drives and sees them (R36, R57, R70, R72, R215); the last two are the model's own. -/
structure State where
  /-- HIST (R21). -/
  hist : BitVec 8
  /-- ACC (R22), two's complement. -/
  acc : BitVec 8
  /-- DIR (R23). -/
  dir : Direction
  /-- SENS (R24, R25). -/
  sens : Sensitivity
  /-- LIVE (R30). -/
  live : Bool
  /-- VEL (R26). -/
  vel : F32
  /-- INCF (R27). -/
  incf : F32
  /-- DECF (R28). -/
  decf : F32
  /-- WIN (R29). -/
  win : Millis
  /-- TLAST (R31). -/
  tlast : Millis
  /-- The pin signals at the instant the command being executed was issued (R57). -/
  pins : Pins
  /-- What the host and the environment do next, oldest first (R9, R215). -/
  inputs : List Input
  /-- The response port after the last input: `some v` for `rsp_valid = 1`, `rsp_data = v` (R72). -/
  rsp : Option Word64
  /-- Every response so far, oldest first: "the observable output of the run" (R215). -/
  outputs : List Word64
  /-- How many free values have been drawn (R12 `any_f32()`); the model's own (log entry 5). -/
  draws : Nat
  /-- The parameters of this QDEC (R8); no step writes them. -/
  cfg : Config
deriving DecidableEq, Repr

/-- Model-level faults: R174's two rows whose model outcome is a fault. Both are raised only when `cfg.strict`; a
machine without it goes on as R107 and R138 say (log entry 4). -/
inductive Fault where
  /-- R107, R174: raised by the decoder step of UPDATE and TUPDATE when `signed(ACC) + d` leaves -128 to +127 and
  `cfg.strict`. Safe: the model stops where the hardware goes on. -/
  | accOverflow
  /-- R138, R174: raised by TUPDATE on its event branch when `t < TLAST` and `cfg.strict`. Safe: the model stops
  where the hardware goes on. -/
  | timeBackwards
deriving DecidableEq, Repr

/-- The reasons a command is refused (R82, R172), and the host's own name for an arm without a meaning. -/
inductive Refusal where
  /-- An arm of `exec` without a meaning; no arm of this model raises it. -/
  | notModelled (mnemonic : String)
  /-- R79, R82 (1): raised by the step on a reserved opcode. Safe: R172 gives the model this outcome. -/
  | illegalOpcode
  /-- R82 (2): raised by the step and by every VT command when unit VT is absent. Safe, as above. -/
  | noVelocityUnit
  /-- R80, R82 (3): raised by the step on a non-zero must-be-0 field. Safe, as above. -/
  | reservedBits
  /-- R81, R82 (4): raised by SETSENS with a magnitude other than 2 and 4. Safe, as above. -/
  | badSensitivity
  /-- R82 (5): raised by CONSTRUCT while LIVE = 1. Safe, as above. -/
  | alreadyLive
  /-- R82 (6): raised by every other command while LIVE = 0. Safe, as above. -/
  | notLive
deriving DecidableEq, Repr

/-- The state after hardware reset (R41, R200): every element at its CONSTRUCT value (R40), LIVE = 0. The pins, the
two parameters and the draw counter are inputs and the model's own, which no rule gives a value: DESIGN CHOICE
(log entries 3, 4, 5, 8). -/
def State.reset : State where
  hist := 0x00
  acc := 0
  dir := .none
  sens := .default
  live := false
  vel := 0x00000000
  incf := 0x3E4CCCCD
  decf := 0x3C23D70A
  win := 25
  tlast := 0
  pins := ⟨false, false, false, false⟩
  inputs := []
  rsp := none
  outputs := []
  draws := 0
  cfg := ⟨true, false⟩

end Sys2Proof.Machine
end

