-- ==== Sys2Proof/Machine/Accept.lean ====
section
/-! DEFINITION. The part of the acceptance check of spec/30_encoding.md R82 that looks at the command word. The part that
looks at the state is in Machine/Ops.lean. -/

namespace Sys2Proof.Machine

/-- The refusal of a word the decoder rejects: R82's check (2) stands between (1) and (3), so a malformed word of a VT
command is refused with NoVelocityUnit when the unit is absent. -/
def rejection (cfg : Config) (w : CommandWord) (e : DecodeError) : Refusal :=
  match e with
  | .illegalOpcode => .illegalOpcode
  | .reservedBits => if velocityOpcode w && !cfg.hasVelocity then .noVelocityUnit else .reservedBits

end Sys2Proof.Machine
end

