-- ==== Sys2Proof/Machine/Operands.lean ====
section
/-! DEFINITION. What a command reads besides the state elements: the operand of SETSENS (spec/30_encoding.md R75), the
pins and the table TBL, the block's only two address spaces (spec/20_memory.md R50 to R59). -/

namespace Sys2Proof.Machine

/-- R25: the magnitude a sensitivity is held as. -/
def Sensitivity.magnitude : Sensitivity → BitVec 3
  | .default => 2
  | .low => 4

/-- R75, R81: 2 selects Default, 4 selects Low, there is no third variant. -/
def sensitivityOf (mag : BitVec 3) : Option Sensitivity :=
  if mag = 2 then some .default else if mag = 4 then some .low else none

/-- R57: the effective level of a pin; a failed read is low. -/
def effectiveLevel (level err : Bool) : Bool :=
  level && !err

/-- R57, R104 (2): `PinSample()` packed into the current sample, bit 1 phase A, bit 0 phase B. -/
def pinSample (p : Pins) : Sample :=
  BitVec.ofBool (effectiveLevel p.a p.aErr) ++ BitVec.ofBool (effectiveLevel p.b p.bErr)

/-- R54: TBL as a 32-bit constant, entry `i` in bits `2i+1:2i`. The polarity is R51's (log entry 12). -/
def tblBits : BitVec 32 :=
  0x1CC14334

/-- R54: `TblRead(i) = signed(TBL_BITS[2i+1:2i])`. -/
def tblRead (i : BitVec 4) : Int :=
  (tblBits.extractLsb' (2 * i.toNat) 2).toInt

end Sys2Proof.Machine
end

