-- ==== Sys2Proof/Machine/Flags.lean ====
section
/-! DEFINITION. The flag-like element DIR (spec/10_state.md R34): when an UPDATE is an event and which direction it
reports (spec/40_decoder.md R105, R106), the range of the accumulator (R107), the code GETDIR responds with
(spec/30_encoding.md R84). The other flag, LIVE, is a Bool of the state. -/

namespace Sys2Proof.Machine

/-- R105: the test is equality of the accumulator's absolute value with the sensitivity magnitude. -/
def isEvent (sens : Sensitivity) (s : Int) : Bool :=
  s.natAbs == sens.magnitude.toNat

/-- R105: "Clockwise if accumulator is positive, else Anticlockwise". -/
def eventDirection (s : Int) : Direction :=
  if 0 < s then .clockwise else .anticlockwise

/-- R105, R106: DIR after an UPDATE whose new accumulator is `s`. -/
def updateDirection (sens : Sensitivity) (s : Int) : Direction :=
  if isEvent sens s then eventDirection s else .none

/-- R107: `wrap8`, the two's complement byte congruent to `i` modulo 256. -/
def wrap8 (i : Int) : BitVec 8 :=
  BitVec.ofInt 8 i

/-- R107, R174: AccOverflow, a sum outside -128 to +127. -/
def accOverflows (i : Int) : Bool :=
  decide (i < -128) || decide (127 < i)

/-- R23: the encoding of DIR. -/
def Direction.code : Direction → BitVec 2
  | .none => 0b00
  | .clockwise => 0b01
  | .anticlockwise => 0b10

end Sys2Proof.Machine
end

