-- ==== Sys2Proof/Machine/Float.lean ====
section
/-! DEFINITION. The binary32 arithmetic of spec/41_velocity.md R131 to R133. Every finite binary32 number is a whole
number of units of 2^-149 (the smallest subnormal), so values are exact integers here and a sum is rounded once, at the
end. The layout and the meaning of the operations are IEEE 754's, which R131 takes from general knowledge (PRESUMED,
log entry 9). -/

namespace Sys2Proof.Machine

/-- R131: the sign bit, bit 31. -/
def fSign (x : F32) : Bool :=
  x.msb

/-- R131: the exponent field, bits 30:23. -/
def fExp (x : F32) : Nat :=
  (x.extractLsb' 23 8).toNat

/-- R131: the fraction field, bits 22:0. -/
def fFrac (x : F32) : Nat :=
  (x.extractLsb' 0 23).toNat

/-- R131: exponent all ones, fraction not 0. -/
def isNaN (x : F32) : Bool :=
  fExp x == 255 && fFrac x != 0

/-- R131: exponent all ones, fraction 0. -/
def isInf (x : F32) : Bool :=
  fExp x == 255 && fFrac x == 0

/-- The magnitude in units of 2^-149: a subnormal is its fraction, a normal number is its 24-bit significand shifted
by `exponent - 1`. An infinity comes out as 2^277 units, above every finite magnitude, which is what a comparison
needs. -/
def fMag (x : F32) : Nat :=
  if fExp x = 0 then fFrac x else (2 ^ 23 + fFrac x) * 2 ^ (fExp x - 1)

/-- The value in units of 2^-149; both zeros are 0. -/
def fVal (x : F32) : Int :=
  if fSign x then -(fMag x : Int) else (fMag x : Int)

/-- R14: `0.0`, positive zero. -/
def f0 : F32 := 0x00000000

/-- R14: `1.0`. -/
def f1 : F32 := 0x3F800000

/-- R14: the CONSTRUCT value of INCF, `0.2`. -/
def f0p2 : F32 := 0x3E4CCCCD

/-- R14: the CONSTRUCT value of DECF, `0.01`. -/
def f0p01 : F32 := 0x3C23D70A

/-- The pattern of plus infinity. -/
def fInf : F32 := 0x7F800000

/-- The bits 30:0 of the binary32 number nearest to `n` units, ties to the even fraction (R131). `n / 2 ^ k` has at
most 24 significant bits, and `k * 2^23` plus it is at once the exponent and the fraction field, a carry out of the
fraction included. Above the largest finite number the result is infinity. -/
def roundMag (n : Nat) : Nat :=
  let k := n.log2 - 23
  let q := n / 2 ^ k
  let r := n % 2 ^ k
  let up := if 2 ^ k < 2 * r ∨ (2 * r = 2 ^ k ∧ q % 2 = 1) then 1 else 0
  min (k * 2 ^ 23 + q + up) 0x7F800000

/-- The binary32 number nearest to `i` units, `i` not 0. -/
def roundUnits (i : Int) : F32 :=
  BitVec.ofNat 32 ((if i < 0 then 2 ^ 31 else 0) + roundMag i.natAbs)

/-- A NaN whose other bits are those of `r`: for every NaN pattern there is an `r` that gives it. -/
def asNaN (r : F32) : F32 :=
  if fFrac r = 0 then r ||| 0x7FC00000 else r ||| 0x7F800000

/-- R131: `fadd`. `r` supplies the bits of a NaN result, which no rule states (log entry 6). An exact zero sum is
`+0.0` unless both operands are `-0.0`. -/
def fadd (r x y : F32) : F32 :=
  if isNaN x || isNaN y then asNaN r
  else if isInf x then (if isInf y && (fSign x != fSign y) then asNaN r else x)
  else if isInf y then y
  else if fVal x + fVal y = 0 then (if fSign x && fSign y then 0x80000000 else f0)
  else roundUnits (fVal x + fVal y)

/-- The sign bit inverted. -/
def fneg (x : F32) : F32 :=
  x ^^^ 0x80000000

/-- R131: `fsub`, the sum with the negated operand. -/
def fsub (r x y : F32) : F32 :=
  fadd r x (fneg y)

/-- R131: `flt`, false whenever an operand is a NaN, the two zeros equal. -/
def flt (x y : F32) : Bool :=
  !isNaN x && !isNaN y && decide (fVal x < fVal y)

/-- R131: `fgt`. -/
def fgt (x y : F32) : Bool :=
  flt y x

/-- R132: a legal factor is not a NaN and not below 0.0. -/
def legalFactor (f : F32) : Bool :=
  !isNaN f && !flt f f0

/-- R133: the ceiling. -/
def clampHi (x : F32) : F32 :=
  if fgt x f1 then f1 else x

/-- R133: the floor. -/
def clampLo (x : F32) : F32 :=
  if flt x f0 then f0 else x

end Sys2Proof.Machine
end

