-- ==== Sys2Proof/Machine/Ops.lean ====
section
/-! DEFINITION. The named operations the meanings are built from: writing the state elements, responding, drawing a free
value, and the parts of the acceptance check of spec/30_encoding.md R82 that need the state. QDEC takes no exception
and returns from none (spec/60_exceptions.md R170, R177), so there is no such operation. -/

namespace Sys2Proof.Machine

/-! ### Writing state elements -/

/-- The three elements an UPDATE writes (R103). -/
def State.writeDecoder (s : State) (hist acc : BitVec 8) (dir : Direction) : State :=
  { s with hist := hist, acc := acc, dir := dir }

/-- `SENS <- m` (R102). -/
def State.writeSens (s : State) (m : Sensitivity) : State :=
  { s with sens := m }

/-- `LIVE <- b` (R100, R112). -/
def State.writeLive (s : State) (b : Bool) : State :=
  { s with live := b }

/-- `VEL <- v`, by an addition or subtraction that may have used the free value `any_f32()`: the draw counter moves on,
so that the next draw is another one (R140). -/
def State.writeVel (s : State) (v : F32) : State :=
  { s with vel := v, draws := s.draws + 1 }

/-- `INCF <- f` (R142). -/
def State.writeIncf (s : State) (f : F32) : State :=
  { s with incf := f }

/-- `DECF <- f` (R143). -/
def State.writeDecf (s : State) (f : F32) : State :=
  { s with decf := f }

/-- `WIN <- ms` (R144). -/
def State.writeWin (s : State) (ms : Millis) : State :=
  { s with win := ms }

/-- `TLAST <- t` (R137). -/
def State.writeTlast (s : State) (t : Millis) : State :=
  { s with tlast := t }

/-- `Respond(v)` (R72): the response port shows `v`, and the run's output grows by it (R215). -/
def State.respond (s : State) (v : Word64) : State :=
  { s with rsp := some v, outputs := s.outputs ++ [v] }

/-- The CONSTRUCT values of the decoder's elements (R40, R100). -/
def State.initDecoder (s : State) : State :=
  { s with hist := 0x00, acc := 0, dir := .none, sens := .default }

/-- The CONSTRUCT values of the tracker's elements (R40, R100), when unit VT is present; without it they do not exist
(R20) and stay untouched. -/
def State.initVelocity (s : State) : State :=
  if s.cfg.hasVelocity then
    { s with vel := f0, incf := f0p2, decf := f0p01, win := 25, tlast := 0 }
  else s

/-! ### Inputs -/

/-- The host issues a command while the pins show `p` (R57, R70): the input is taken, the pins are as they are at that
instant, and `rsp_valid` is 0 unless the command responds (R72). -/
def State.present (s : State) (p : Pins) (rest : List Input) : State :=
  { s with pins := p, inputs := rest, rsp := none }

/-- No command is issued: nothing changes but that a response is presented for one cycle only (R72, R201). -/
def State.idle (s : State) : State :=
  { s with rsp := none }

/-- `rst` (R41, R200): every element at its CONSTRUCT value, LIVE = 0, `rsp_valid = 0`. -/
def State.hardwareReset (s : State) (rest : List Input) : State :=
  (({ s with inputs := rest, rsp := none }).initDecoder.writeLive false).initVelocity

/-! ### The free value -/

/-- `any_f32()` (R12, R140): the draw this command takes if it takes one. -/
def State.draw (s : State) : F32 :=
  Config.anyF32 s.draws

/-! ### The acceptance check (R82 (2), (5), (6)) -/

/-- R82 (2): a command of unit VT needs the unit. -/
def whenVelocity (s : State) (k : Host.Outcome State Fault Refusal) : Host.Outcome State Fault Refusal :=
  if s.cfg.hasVelocity then k else .refused .noVelocityUnit

/-- R82 (6): every command but CONSTRUCT needs LIVE = 1. -/
def whenLive (s : State) (k : Host.Outcome State Fault Refusal) : Host.Outcome State Fault Refusal :=
  if s.live then k else .refused .notLive

/-- R82 (5): CONSTRUCT needs LIVE = 0. -/
def whenNotLive (s : State) (k : Host.Outcome State Fault Refusal) : Host.Outcome State Fault Refusal :=
  if s.live then .refused .alreadyLive else k

/-- Go on from a next state; a fault or a refusal stays. -/
def andThen (o : Host.Outcome State Fault Refusal) (k : State → Host.Outcome State Fault Refusal) :
    Host.Outcome State Fault Refusal :=
  match o with
  | .next s => k s
  | .fault r => .fault r
  | .refused r => .refused r

end Sys2Proof.Machine
end

