-- ==== Sys2Proof/Machine/Decoder.lean ====
section
/-! DEFINITION. The meanings of the six commands of unit DEC (spec/40_decoder.md R100 to R112). -/

namespace Sys2Proof.Machine

/-- R100: CONSTRUCT writes every element that exists and sets LIVE. It does not sample the pins. -/
def execConstruct (s : State) : Host.Outcome State Fault Refusal :=
  whenNotLive s (.next (s.initDecoder.writeLive true).initVelocity)

/-- R104 (3): `{HIST[5:0], cur}`. -/
def shiftHistory (hist : BitVec 8) (cur : Sample) : BitVec 8 :=
  hist.extractLsb' 0 6 ++ cur

/-- R103 step 4 before `wrap8`: the accumulator plus the table value of the transition, indexed by the new history's
low four bits (R55, R104 (4)). -/
def accumulate (acc h : BitVec 8) : Int :=
  acc.toInt + tblRead (h.extractLsb' 0 4)

/-- R103 steps 5 and 6, R105, R106: with `h` the new history and `a` the new accumulator, an event clears ACC and
reports a direction, any other UPDATE keeps ACC and sets DIR to None. -/
def commitUpdate (s : State) (h a : BitVec 8) : State :=
  s.writeDecoder h (if isEvent s.sens a.toInt then 0 else a) (updateDirection s.sens a.toInt)

/-- The decoder step of R103, shared by UPDATE and by TUPDATE (R135). Past the accumulator's range it wraps (R107),
or stops with R174's fault when the configuration asks for that outcome (log entry 4). -/
def decoderStep (s : State) : Host.Outcome State Fault Refusal :=
  let h := shiftHistory s.hist (pinSample s.pins)
  if s.cfg.strict && accOverflows (accumulate s.acc h) then .fault .accOverflow
  else .next (commitUpdate s h (wrap8 (accumulate s.acc h)))

/-- R103: UPDATE. -/
def execUpdate (s : State) : Host.Outcome State Fault Refusal :=
  whenLive s (decoderStep s)

/-- R102: SETSENS writes SENS and nothing else; R81 refuses the other magnitudes before LIVE is looked at (R82). -/
def execSetsens (mag : BitVec 3) (s : State) : Host.Outcome State Fault Refusal :=
  match sensitivityOf mag with
  | some m => whenLive s (.next (s.writeSens m))
  | none => .refused .badSensitivity

/-- R110: GETDIR responds `zext_64(DIR)` (R84). -/
def execGetdir (s : State) : Host.Outcome State Fault Refusal :=
  whenLive s (.next (s.respond (s.dir.code.setWidth 64)))

/-- R111: BORROWPINS changes nothing, samples nothing, responds nothing. -/
def execBorrowpins (s : State) : Host.Outcome State Fault Refusal :=
  whenLive s (.next s)

/-- R112: RELEASE clears LIVE; the other elements keep their values. -/
def execRelease (s : State) : Host.Outcome State Fault Refusal :=
  whenLive s (.next (s.writeLive false))

end Sys2Proof.Machine
end

