-- ==== Sys2Proof/Machine/Velocity.lean ====
section
/-! DEFINITION. The meanings of the seven commands of unit VT (spec/41_velocity.md R134 to R147). -/

namespace Sys2Proof.Machine

/-- R134, R136, R140: the new VEL of an increment. An illegal factor gives the free value. -/
def incrementedVel (s : State) : F32 :=
  if legalFactor s.incf then clampHi (fadd s.draw s.vel s.incf) else s.draw

/-- R139, R140: the new VEL of a decay. An illegal factor gives the free value. -/
def decayedVel (s : State) : F32 :=
  if legalFactor s.decf then clampLo (fsub s.draw s.vel s.decf) else s.draw

/-- R136, R138: whether an event at time `t` increments: the modular elapsed time is below the window, both unsigned,
and VEL is below 1.0. -/
def incrementDue (t : Millis) (s : State) : Bool :=
  decide ((t - s.tlast).toNat < s.win.toNat) && flt s.vel f1

/-- R134 steps 2 and 3, after the inner UPDATE: an event may increment VEL and never writes TLAST (R136), a quiet call
writes TLAST (R137). A timestamp before TLAST on the event branch takes the modular difference (R138), or stops with
R174's fault when the configuration asks for that outcome (log entry 4). -/
def velocityStep (t : Millis) (s : State) : Host.Outcome State Fault Refusal :=
  if s.dir = .none then .next (s.writeTlast t)
  else if s.cfg.strict && decide (t.toNat < s.tlast.toNat) then .fault .timeBackwards
  else .next (if incrementDue t s then s.writeVel (incrementedVel s) else s)

/-- R134: TUPDATE, the inner UPDATE first and completely (R135). -/
def execTupdate (t : Millis) (s : State) : Host.Outcome State Fault Refusal :=
  whenVelocity s (whenLive s (andThen (decoderStep s) (velocityStep t)))

/-- R139: DECAY. -/
def execDecay (s : State) : Host.Outcome State Fault Refusal :=
  whenVelocity s (whenLive s (.next (s.writeVel (decayedVel s))))

/-- R142: SETINC stores any pattern. -/
def execSetinc (f : F32) (s : State) : Host.Outcome State Fault Refusal :=
  whenVelocity s (whenLive s (.next (s.writeIncf f)))

/-- R143: SETDEC stores any pattern. -/
def execSetdec (f : F32) (s : State) : Host.Outcome State Fault Refusal :=
  whenVelocity s (whenLive s (.next (s.writeDecf f)))

/-- R144: SETWIN stores any duration. -/
def execSetwin (ms : Millis) (s : State) : Host.Outcome State Fault Refusal :=
  whenVelocity s (whenLive s (.next (s.writeWin ms)))

/-- R146: GETVEL responds `zext_64(VEL)` (R84). -/
def execGetvel (s : State) : Host.Outcome State Fault Refusal :=
  whenVelocity s (whenLive s (.next (s.respond (s.vel.setWidth 64))))

/-- R147: BORROWINNER changes nothing, samples nothing, responds nothing. -/
def execBorrowinner (s : State) : Host.Outcome State Fault Refusal :=
  whenVelocity s (whenLive s (.next s))

end Sys2Proof.Machine
end

