-- ==== Sys2Proof/Machine/Dispatch.lean ====
section
/-! DEFINITION. One arm per command, each one call of its meaning. -/

namespace Sys2Proof.Machine

-- unit DEC (spec/40_decoder.md), then unit VT (spec/41_velocity.md)
def exec (i : Instr) (s : State) : Host.Outcome State Fault Refusal :=
  match i with
  | .construct => Sys2Proof.Machine.execConstruct s
  | .update => Sys2Proof.Machine.execUpdate s
  | .setsens mag => Sys2Proof.Machine.execSetsens mag s
  | .getdir => Sys2Proof.Machine.execGetdir s
  | .borrowpins => Sys2Proof.Machine.execBorrowpins s
  | .release => Sys2Proof.Machine.execRelease s
  | .borrowinner => Sys2Proof.Machine.execBorrowinner s
  | .tupdate t => Sys2Proof.Machine.execTupdate t s
  | .decay => Sys2Proof.Machine.execDecay s
  | .setinc f => Sys2Proof.Machine.execSetinc f s
  | .setdec f => Sys2Proof.Machine.execSetdec f s
  | .setwin ms => Sys2Proof.Machine.execSetwin ms s
  | .getvel => Sys2Proof.Machine.execGetvel s

end Sys2Proof.Machine
end

