-- ==== Sys2Proof/Machine/Step.lean ====
section
/-! DEFINITION. One step of the machine: the next thing the outside world does (spec/00_scope.md R9). QDEC has no
program counter and fetches nothing (spec/10_state.md R33): the host pushes each command at the port. -/

namespace Sys2Proof.Machine

/-- R60, R70, R82, R200: a command is checked and executed, all at once; a reset puts every element at its reset value;
with nothing to do the block waits (R201). -/
def step (s : State) : Host.Outcome State Fault Refusal :=
  match s.inputs with
  | [] => .next s.idle
  | .reset :: rest => .next (s.hardwareReset rest)
  | .command w p :: rest =>
    match decode w with
    | .ok i => exec i (s.present p rest)
    | .error e => .refused (rejection s.cfg w e)

/-- `s` with the table word `w` as the next command the host issues, the pins left as they are: where step takes its
next command from is the head of the input list (fixed name of the host's interface). A number that is no command
word (R70) places its low 68 bits. -/
def State.withFetchWord (s : State) (nbits w : Nat) : State :=
  { s with inputs := .command (BitVec.ofNat 68 (w % 2 ^ nbits)) s.pins :: s.inputs }

end Sys2Proof.Machine
end

