-- ==== Sys2Proof/Machine/Run.lean ====
section
/-! DEFINITION. What the ports show across a refused command: "the command after a refused command is checked and executed
exactly as if the refused one had not been issued" (spec/60_exceptions.md R172, R173). `step` answers a refusal, as
R172 says a model does; `portStep` goes on from there, as the hardware does. -/

namespace Sys2Proof.Machine

/-- R172: the block after a refused command: the word is gone, no state element changed, nothing responded. -/
def ignoreCommand (s : State) : State :=
  match s.inputs with
  | .command _ p :: rest => s.present p rest
  | .reset :: _ => s
  | [] => s

/-- The next input as the host sees it from the ports: a refused command is ignored. -/
def portStep (s : State) : Host.Outcome State Fault Refusal :=
  match step s with
  | .next t => .next t
  | .fault r => .fault r
  | .refused _ => .next (ignoreCommand s)

/-- `n` inputs as the host sees them. -/
def portRun : Nat → State → Host.Outcome State Fault Refusal
  | 0, s => .next s
  | n + 1, s => andThen (portStep s) (portRun n)

end Sys2Proof.Machine
end

