-- ==== Sys2Proof/Safety.lean ====
section
/-! DEFINITION. The terms claims about QDEC are stated in: the opcode table and the acceptance check as the spec writes
them, the transition in closed form, the host's obligations (spec/70_reset_and_hazards.md), the invariants of
spec/10_state.md, and how two runs are compared. Nothing here is used by the machine. -/

namespace Sys2Proof.Machine

/-! ### The command word, as R79 to R88 tabulate it -/

/-- One row of R88: a word `w` spells the command when `w and mask = pattern`. -/
structure OpcodeRow where
  mnemonic : String
  pattern : CommandWord
  mask : CommandWord
deriving DecidableEq, Repr

/-- R88's table, the copy in spec/opcode_table.json. -/
def opcodeTable : List OpcodeRow :=
  [ ⟨"CONSTRUCT", 0x00000000000000000, 0xFFFFFFFFFFFFFFFFF⟩
  , ⟨"UPDATE", 0x10000000000000000, 0xFFFFFFFFFFFFFFFFF⟩
  , ⟨"SETSENS", 0x20000000000000000, 0xFFFFFFFFFFFFFFFF8⟩
  , ⟨"GETDIR", 0x30000000000000000, 0xFFFFFFFFFFFFFFFFF⟩
  , ⟨"BORROWPINS", 0x40000000000000000, 0xFFFFFFFFFFFFFFFFF⟩
  , ⟨"RELEASE", 0x50000000000000000, 0xFFFFFFFFFFFFFFFFF⟩
  , ⟨"BORROWINNER", 0x60000000000000000, 0xFFFFFFFFFFFFFFFFF⟩
  , ⟨"TUPDATE", 0x80000000000000000, 0xF0000000000000000⟩
  , ⟨"DECAY", 0x90000000000000000, 0xFFFFFFFFFFFFFFFFF⟩
  , ⟨"SETINC", 0xA0000000000000000, 0xFFFFFFFFF00000000⟩
  , ⟨"SETDEC", 0xB0000000000000000, 0xFFFFFFFFF00000000⟩
  , ⟨"SETWIN", 0xC0000000000000000, 0xF0000000000000000⟩
  , ⟨"GETVEL", 0xD0000000000000000, 0xFFFFFFFFFFFFFFFFF⟩ ]

/-- R79: opcode `0x7`, `0xE` or `0xF`. -/
def reservedOpcode (w : CommandWord) : Bool :=
  [0x7, 0xE, 0xF].contains (opcodeOf w).toNat

/-- R80: the must-be-0 field of the word's format is not 0 (`CW[63:3]` for S, `CW[63:32]` for F, none for T,
`CW[63:0]` for N). -/
def reservedBitsSet (w : CommandWord) : Bool :=
  if (opcodeOf w).toNat = 0x2 then w.extractLsb' 3 61 != 0
  else if (opcodeOf w).toNat = 0xA ∨ (opcodeOf w).toNat = 0xB then w.extractLsb' 32 32 != 0
  else if (opcodeOf w).toNat = 0x8 ∨ (opcodeOf w).toNat = 0xC then false
  else w.extractLsb' 0 64 != 0

/-- R82 on the raw word: the six checks in their order. `none`: the command is executed. -/
def acceptance (cfg : Config) (live : Bool) (w : CommandWord) : Option Refusal :=
  if reservedOpcode w then some .illegalOpcode
  else if cfg.hasVelocity = false ∧ [0x6, 0x8, 0x9, 0xA, 0xB, 0xC, 0xD].contains (opcodeOf w).toNat then
    some .noVelocityUnit
  else if reservedBitsSet w then some .reservedBits
  else if (opcodeOf w).toNat = 0x2 ∧ w.extractLsb' 0 3 ≠ 2 ∧ w.extractLsb' 0 3 ≠ 4 then some .badSensitivity
  else if (opcodeOf w).toNat = 0x0 ∧ live = true then some .alreadyLive
  else if (opcodeOf w).toNat ≠ 0x0 ∧ live = false then some .notLive
  else none

/-- The command the host issues next, if the next input is a word that spells one. -/
def nextCommand (s : State) : Option Instr :=
  match s.inputs with
  | .command w _ :: _ => (decode w).toOption
  | .reset :: _ => none
  | [] => none

/-! ### The decoder, in closed form -/

/-- R57: the sample the pins show now, `{a, b}`, a failed read low. -/
def sampleOf (p : Pins) : Sample :=
  BitVec.ofBool (p.a && !p.aErr) ++ BitVec.ofBool (p.b && !p.bErr)

/-- R53: `(pa xor cb) - (pb xor ca)`, the value of the transition from sample `p` to sample `c`. -/
def stepValue (p c : Sample) : Int :=
  ((p.getLsbD 1 ^^ c.getLsbD 0).toNat : Int) - ((p.getLsbD 0 ^^ c.getLsbD 1).toNat : Int)

/-- R55: the previous sample, `HIST[1:0]` before the UPDATE. -/
def previousSample (s : State) : Sample :=
  s.hist.extractLsb' 0 2

/-- R104: the accumulator plus the value of the transition the pins show now. -/
def sumNow (s : State) : Int :=
  s.acc.toInt + stepValue (previousSample s) (sampleOf s.pins)

/-- R21, R104 (3): the history after an UPDATE now. -/
def historyNow (s : State) : BitVec 8 :=
  s.hist.extractLsb' 0 6 ++ sampleOf s.pins

/-- R24: 2 for Default, 4 for Low. -/
def threshold (m : Sensitivity) : Nat :=
  match m with
  | .default => 2
  | .low => 4

/-- R15, R109 (c): the net valid steps of a list of pin readings, from the sample `prev` on. -/
def netSteps : Sample → List Pins → Int
  | _, [] => 0
  | prev, p :: ps => stepValue prev (sampleOf p) + netSteps (sampleOf p) ps

/-- One UPDATE for each pin reading of the list. -/
def updates : List Pins → State → Host.Outcome State Fault Refusal
  | [], s => .next s
  | p :: ps, s => andThen (exec .update { s with pins := p }) (updates ps)

/-- The commands of the list one after the other, the pins as they are. -/
def commands : List Instr → State → Host.Outcome State Fault Refusal
  | [], s => .next s
  | i :: is, s => andThen (exec i s) (commands is)

/-- The same command `n` times. -/
def repeated (i : Instr) : Nat → State → Host.Outcome State Fault Refusal
  | 0, s => .next s
  | n + 1, s => andThen (exec i s) (repeated i n)

/-! ### What the host must do, and what then holds -/

/-- R207, R208, R210 for the next command: a SETSENS finds `abs(ACC)` below the magnitude it sets, a TUPDATE is not
before TLAST and finds INCF legal, a DECAY finds DECF legal. -/
def hostContract (s : State) : Bool :=
  match nextCommand s with
  | some (.setsens mag) => decide (s.acc.toInt.natAbs < mag.toNat)
  | some (.tupdate t) => decide (s.tlast.toNat ≤ t.toNat) && legalFactor s.incf
  | some .decay => legalFactor s.decf
  | _ => true

/-- R37: `abs(ACC) < SENS`. -/
def accBound (s : State) : Bool :=
  decide (s.acc.toInt.natAbs < threshold s.sens)

/-- R38: not a NaN, not negative zero, `0.0 <= VEL <= 1.0`. -/
def velBound (v : F32) : Bool :=
  !isNaN v && v != 0x80000000 && !flt v f0 && !fgt v f1

/-- What every step keeps, whatever the host does: a reported direction stands beside a cleared accumulator (R105), a
response on the port is the latest output (R72, R215), and every response has zeros in bits 63:32 (R84). -/
def Inv (s : State) : Prop :=
  (s.dir ≠ .none → s.acc = 0) ∧
  (∀ v, s.rsp = some v → s.outputs.getLast? = some v) ∧
  ∀ v ∈ s.outputs, v.toNat < 2 ^ 32

/-! ### Comparing two runs -/

/-- Two outcomes of the same kind, with the same reason or with next states related by `R`. -/
def outcomeRel (R : State → State → Prop) (o o' : Host.Outcome State Fault Refusal) : Prop :=
  match o, o' with
  | .next t, .next t' => R t t'
  | .fault r, .fault r' => r = r'
  | .refused r, .refused r' => r = r'
  | _, _ => False

/-- An outcome with a function applied to its next state. -/
def mapNext (f : State → State) (o : Host.Outcome State Fault Refusal) : Host.Outcome State Fault Refusal :=
  match o with
  | .next t => .next (f t)
  | .fault r => .fault r
  | .refused r => .refused r

/-- R35: two states that differ at most in `HIST[7:4]`. -/
def sameButOldHistory (s s' : State) : Prop :=
  s'.hist.extractLsb' 0 4 = s.hist.extractLsb' 0 4 ∧ { s' with hist := s.hist } = s

/-- What the host can see of a state: the response port, the responses so far, and what is still to come (R72, R215). -/
def sameView (s s' : State) : Prop :=
  s'.rsp = s.rsp ∧ s'.outputs = s.outputs ∧ s'.inputs = s.inputs

end Sys2Proof.Machine
end

