-- ==== Sys2Proof/Certificates/Slice0/Obligations.lean ====
section
/-! DEFINITION. The statements about QDEC, from the numbered rules of spec/. Each docstring names the rules it rests on. -/

open Sys2Proof Sys2Proof.Machine

/-! ### Encoding -/

/-- R74, R75 to R78, R88: one word of each format, as the spec's vectors spell it, decodes to its command. -/
def Obligations.SampleWordsDecode : Prop :=
  decode 0x0_0000000000000000 = .ok .construct ∧
  decode 0x1_0000000000000000 = .ok .update ∧
  decode 0x2_0000000000000004 = .ok (.setsens 4) ∧
  decode 0x3_0000000000000000 = .ok .getdir ∧
  decode 0x8_00000000000003F2 = .ok (.tupdate 1010) ∧
  decode 0x9_0000000000000000 = .ok .decay ∧
  decode 0xA_000000003F000000 = .ok (.setinc 0x3F000000) ∧
  decode 0xB_000000003E800000 = .ok (.setdec 0x3E800000) ∧
  decode 0xC_0000000000000032 = .ok (.setwin 50) ∧
  decode 0xD_0000000000000000 = .ok .getvel

/-- R70, R74 to R78: no bit of an encoding is lost, for every command and every operand. -/
def Obligations.DecodeOfEncodeIsTheCommand : Prop :=
  ∀ i : Instr, decode (encode i) = .ok i

/-- R70, R79, R80, R83: a word that decodes is the one encoding of its command. -/
def Obligations.EncodeOfDecodeIsTheWord : Prop :=
  ∀ (w : CommandWord) (i : Instr), decode w = .ok i → encode i = w

/-- R88: a word spells a command exactly when it matches the command's row, its unmasked bits being the operand; a word
that matches no row is rejected as R79 or R80 says; a SETSENS word matches for all eight values of `mag`, and R81 then refuses six. -/
def Obligations.DecodeFollowsTheMatchMaskTable : Prop :=
  (∀ w : CommandWord,
    (∀ row ∈ opcodeTable, w &&& row.mask = row.pattern ↔
      ∃ i, decode w = .ok i ∧ i.mnemonic = row.mnemonic ∧ i.operand = (w &&& ~~~row.mask).extractLsb' 0 64) ∧
    ((∀ row ∈ opcodeTable, w &&& row.mask ≠ row.pattern) →
      decode w = .error (if reservedOpcode w then .illegalOpcode else .reservedBits))) ∧
  (∀ mag : BitVec 3, decode (0x2#4 ++ mag.setWidth 64) = .ok (.setsens mag)) ∧
  ∀ (mag : BitVec 3) (s : State), mag ∈ [0, 1, 3, 5, 6, 7] → exec (.setsens mag) s = .refused .badSensitivity

/-- R79: the three reserved opcodes, and no others, spell no command; no word is executed as another command's. -/
def Obligations.ReservedOpcodesSpellNoCommand : Prop :=
  (∀ w : CommandWord, opcodeOf w = 0x7 ∨ opcodeOf w = 0xE ∨ opcodeOf w = 0xF ↔ decode w = .error .illegalOpcode) ∧
  (∀ (w w' : CommandWord) (i : Instr), decode w = .ok i → decode w' = .ok i → w = w') ∧
  ∀ (s : State) (w : CommandWord) (p : Pins) (rest : List Input), s.inputs = .command w p :: rest →
    opcodeOf w = 0x7 ∨ opcodeOf w = 0xE ∨ opcodeOf w = 0xF → step s = .refused .illegalOpcode

/-- R80 (and R82 (2), which stands before it): a must-be-0 field that is not 0 is refused with ReservedBits; format T
has no such field. -/
def Obligations.NonzeroReservedFieldIsRefused : Prop :=
  (∀ (s : State) (w : CommandWord) (p : Pins) (rest : List Input), s.inputs = .command w p :: rest →
    (opcodeOf w).toNat ∈ [0x0, 0x1, 0x3, 0x4, 0x5, 0x6, 0x9, 0xD] ∧ w.extractLsb' 0 64 ≠ 0 ∨
    opcodeOf w = 0x2 ∧ w.extractLsb' 3 61 ≠ 0 ∨
    (opcodeOf w = 0xA ∨ opcodeOf w = 0xB) ∧ w.extractLsb' 32 32 ≠ 0 →
    step s = .refused
      (if s.cfg.hasVelocity = false ∧ (opcodeOf w).toNat ∈ [0x6, 0x9, 0xA, 0xB, 0xD] then .noVelocityUnit
       else .reservedBits)) ∧
  ∀ w : CommandWord, opcodeOf w = 0x8 ∨ opcodeOf w = 0xC → decode w ≠ .error .reservedBits

/-- R81: SETSENS with a magnitude that is neither 2 nor 4. -/
def Obligations.OtherMagnitudesAreRefused : Prop :=
  ∀ (s : State) (mag : BitVec 3), mag ≠ 2 → mag ≠ 4 → exec (.setsens mag) s = .refused .badSensitivity

/-! ### The step -/

/-- R82: a command is refused with the first reason of the six that applies, and then changes nothing, samples nothing
and responds nothing; if none applies its word spells a legal command and that command's meaning is what happens. -/
def Obligations.AcceptanceCheckDecidesEveryCommand : Prop :=
  ∀ (s : State) (w : CommandWord) (p : Pins) (rest : List Input), s.inputs = .command w p :: rest →
    (∀ r, acceptance s.cfg s.live w = some r →
      step s = .refused r ∧ portStep s = .next { s with inputs := rest, pins := p, rsp := none }) ∧
    (acceptance s.cfg s.live w = none →
      ∃ i, decode w = .ok i ∧ i.wellFormed = true ∧
        step s = exec i { s with inputs := rest, pins := p, rsp := none } ∧ ∀ r, step s ≠ .refused r)

/-- R60, R70, R82: a word that decodes is carried out by its command's meaning, on the state with the word taken from
the input list, the pins as they are at that instant, and no response on the port (R72). -/
def Obligations.StepRunsTheDecodedCommand : Prop :=
  ∀ (s : State) (w : CommandWord) (p : Pins) (rest : List Input) (i : Instr),
    s.inputs = .command w p :: rest → decode w = .ok i →
    step s = exec i { s with inputs := rest, pins := p, rsp := none }

/-- R41, R200, R201 for a reset; with no input the block waits, which is the model's choice of a step (log entry 10). -/
def Obligations.StepWaitsOrResets : Prop :=
  ∀ s : State,
    (s.inputs = [] → step s = .next { s with rsp := none }) ∧
    ∀ rest, s.inputs = .reset :: rest →
      step s = .next
        (if s.cfg.hasVelocity then
          { s with hist := 0x00, acc := 0, dir := .none, sens := .default, live := false, vel := 0x00000000,
                   incf := 0x3E4CCCCD, decf := 0x3C23D70A, win := 25, tlast := 0, inputs := rest, rsp := none }
         else
          { s with hist := 0x00, acc := 0, dir := .none, sens := .default, live := false, inputs := rest, rsp := none })

/-- R40, R41, R200: the state after hardware reset. That nothing is queued and nothing has been output is the model's
bookkeeping (log entries 1, 7). That the step from it is a wait that changes nothing formalises R201's "the block waits for
commands" by the model's choice of a step with no input (log entry 10). -/
def Obligations.ResetLeavesTheConstructValues : Prop :=
  State.reset.hist = 0x00 ∧ State.reset.acc = 0 ∧ State.reset.dir = .none ∧ State.reset.sens = .default ∧
  State.reset.live = false ∧ State.reset.vel = 0x00000000 ∧ State.reset.incf = 0x3E4CCCCD ∧
  State.reset.decf = 0x3C23D70A ∧ State.reset.win = 25 ∧ State.reset.tlast = 0 ∧ State.reset.rsp = none ∧
  State.reset.inputs = [] ∧ State.reset.outputs = [] ∧ step State.reset = .next State.reset

/-- R173: seen from the ports, what follows a refused command is what would have followed without it. -/
def Obligations.RefusedCommandLeavesNoTrace : Prop :=
  ∀ (s : State) (w w' : CommandWord) (p p' : Pins) (rest : List Input) (r : Refusal) (n : Nat),
    s.inputs = .command w p :: .command w' p' :: rest → step s = .refused r →
    portRun (n + 2) s = portRun (n + 1) { s with inputs := .command w' p' :: rest }

/-! ### Commands of unit DEC -/

/-- R100: CONSTRUCT. -/
def Obligations.ConstructWritesEveryElement : Prop :=
  (∀ s : State,
    (s.live = false →
      exec .construct s = .next
        (if s.cfg.hasVelocity then
          { s with hist := 0x00, acc := 0, dir := .none, sens := .default, live := true, vel := 0x00000000,
                   incf := 0x3E4CCCCD, decf := 0x3C23D70A, win := 25, tlast := 0 }
         else { s with hist := 0x00, acc := 0, dir := .none, sens := .default, live := true })) ∧
    (s.live = true → exec .construct s = .refused .alreadyLive)) ∧
  ∀ arg : Word64, arg ≠ 0 → decode (0x0#4 ++ arg) = .error .reservedBits

/-- R101: RELEASE and CONSTRUCT leave the state of R100, whatever the elements held before. -/
def Obligations.ReconstructionForgetsTheOldState : Prop :=
  ∀ (s : State) (h a : BitVec 8) (d : Direction) (m : Sensitivity) (v i f : F32) (w t : Millis), s.live = true →
    andThen (exec .release s) (exec .construct) = .next
      (if s.cfg.hasVelocity then
        { s with hist := 0x00, acc := 0, dir := .none, sens := .default, live := true, vel := 0x00000000,
                 incf := 0x3E4CCCCD, decf := 0x3C23D70A, win := 25, tlast := 0 }
       else { s with hist := 0x00, acc := 0, dir := .none, sens := .default, live := true }) ∧
    andThen (exec .release s) (exec .construct) =
      exec .construct { s with hist := h, acc := a, dir := d, sens := m, live := false } ∧
    (s.cfg.hasVelocity = true →
      andThen (exec .release s) (exec .construct) =
        exec .construct { s with hist := h, acc := a, dir := d, sens := m, live := false, vel := v, incf := i,
                                 decf := f, win := w, tlast := t })

/-- R102: SETSENS. -/
def Obligations.SetsensWritesOnlySens : Prop :=
  (∀ s : State,
    (s.live = true →
      exec (.setsens 2) s = .next { s with sens := .default } ∧ exec (.setsens 4) s = .next { s with sens := .low }) ∧
    (s.live = false →
      exec (.setsens 2) s = .refused .notLive ∧ exec (.setsens 4) s = .refused .notLive) ∧
    ∀ mag : BitVec 3, mag ≠ 2 → mag ≠ 4 → exec (.setsens mag) s = .refused .badSensitivity) ∧
  ∀ arg : Word64, arg.extractLsb' 3 61 ≠ 0 → decode (0x2#4 ++ arg) = .error .reservedBits

/-- R103 with R51's table and R107's `wrap8` written out: UPDATE. The premise leaves out only R174's model outcome, which a
`strict` configuration takes past the accumulator's range (log entry 4) and AccumulatorOverflowWrapsOrFaults states. -/
def Obligations.UpdateFollowsItsSixSteps : Prop :=
  (∀ s : State,
    (s.live = true →
      let cur : Sample := BitVec.ofBool (s.pins.a && !s.pins.aErr) ++ BitVec.ofBool (s.pins.b && !s.pins.bErr)
      let h : BitVec 8 := s.hist.extractLsb' 0 6 ++ cur
      let d : Int := ([0, 1, -1, 0, -1, 0, 0, 1, 1, 0, 0, -1, 0, -1, 1, 0] : List Int).getD (h.toNat % 16) 0
      let sum : Int := s.acc.toInt + d
      let w : Int := if sum = 128 then -128 else if sum = -129 then 127 else sum
      s.cfg.strict = false ∨ (-128 ≤ sum ∧ sum ≤ 127) →
        exec .update s = .next { s with
          hist := h
          acc := if w.natAbs = threshold s.sens then 0 else BitVec.ofInt 8 w
          dir := if w.natAbs = threshold s.sens then (if 0 < w then .clockwise else .anticlockwise) else .none }) ∧
    (s.live = false → exec .update s = .refused .notLive)) ∧
  ∀ arg : Word64, arg ≠ 0 → decode (0x1#4 ++ arg) = .error .reservedBits

/-- R105: an UPDATE is an event exactly when the new accumulator's absolute value equals the sensitivity magnitude; then
ACC is 0 and DIR says the sign; no command but CONSTRUCT, UPDATE and TUPDATE changes DIR after that. -/
def Obligations.EventClearsTheAccumulatorAndReports : Prop :=
  (∀ s t : State, exec .update s = .next t →
    let w : Int := (BitVec.ofInt 8 (sumNow s)).toInt
    (w.natAbs = threshold s.sens ↔ t.dir ≠ .none) ∧
    (w.natAbs = threshold s.sens →
      t.acc = 0 ∧ w ≠ 0 ∧ (0 < w → t.dir = .clockwise) ∧ (w < 0 → t.dir = .anticlockwise))) ∧
  ∀ (i : Instr) (s t : State), exec i s = .next t → i ≠ .construct → i ≠ .update → (∀ n, i ≠ .tupdate n) →
    t.dir = s.dir

/-- R106: every UPDATE that is not an event leaves DIR = None and ACC = `s`. -/
def Obligations.UpdateWithoutEventIsQuiet : Prop :=
  ∀ s t : State, exec .update s = .next t →
    (BitVec.ofInt 8 (sumNow s)).toInt.natAbs ≠ threshold s.sens →
    t.dir = .none ∧ t.acc = BitVec.ofInt 8 (sumNow s)

/-- R107: `wrap8` on its whole range, and what it means for the threshold test. -/
def Obligations.AccumulatorWrapsModulo256 : Prop :=
  (wrap8 128).toInt = -128 ∧ (wrap8 (-129)).toInt = 127 ∧
  (∀ i : Int, -128 ≤ i → i ≤ 127 → (wrap8 i).toInt = i) ∧ ∀ m : Sensitivity, isEvent m (-128) = false

/-- R107, R174: AccOverflow. The wrapped value is the spec's decision D7, and which outcome a machine takes is the
model's parameter (log entry 4). -/
def Obligations.AccumulatorOverflowWrapsOrFaults : Prop :=
  ∀ (s : State) (t : Millis), s.live = true → sumNow s < -128 ∨ 127 < sumNow s →
    (s.cfg.strict = true →
      exec .update s = .fault .accOverflow ∧
      (s.cfg.hasVelocity = true → exec (.tupdate t) s = .fault .accOverflow)) ∧
    (s.cfg.strict = false →
      exec .update s = .next { s with
        hist := historyNow s, acc := if 0 < sumNow s then 0x80 else 0x7F, dir := .none } ∧
      (s.cfg.hasVelocity = true →
        exec (.tupdate t) s = .next { s with
          hist := historyNow s, acc := if 0 < sumNow s then 0x80 else 0x7F, dir := .none, tlast := t }))

/-- R108: the corner after lowering the sensitivity, at SENS = 2 with ACC at or above the threshold. -/
def Obligations.LoweredSensitivityCorner : Prop :=
  ∀ s t : State, s.sens = .default → exec .update s = .next t →
    let d := stepValue (previousSample s) (sampleOf s.pins)
    (s.acc.toInt = 2 →
      (d = 0 → t.dir = .clockwise ∧ t.acc = 0) ∧ (d = -1 → t.dir = .none ∧ t.acc = 1) ∧
      (d = 1 → t.dir = .none ∧ t.acc = 3)) ∧
    (s.acc.toInt = -2 →
      (d = 0 → t.dir = .anticlockwise ∧ t.acc = 0) ∧ (d = 1 → t.dir = .none ∧ t.acc.toInt = -1) ∧
      (d = -1 → t.dir = .none ∧ t.acc.toInt = -3)) ∧
    (3 ≤ s.acc.toInt ∧ s.acc.toInt + d ≤ 127 →
      (s.acc.toInt + d = 2 → t.dir = .clockwise ∧ t.acc = 0) ∧
      (s.acc.toInt + d ≠ 2 → t.dir = .none ∧ t.acc.toInt = s.acc.toInt + d)) ∧
    (s.acc.toInt ≤ -3 ∧ -128 ≤ s.acc.toInt + d →
      (s.acc.toInt + d = -2 → t.dir = .anticlockwise ∧ t.acc = 0) ∧
      (s.acc.toInt + d ≠ -2 → t.dir = .none ∧ t.acc.toInt = s.acc.toInt + d))

/-- R109 (a), (b), (g), (h), in states within R37's bound. -/
def Obligations.OneUpdateMovesTheAccumulatorByAtMostOne : Prop :=
  ∀ s t : State, accBound s = true → exec .update s = .next t →
    (t.dir ≠ .none ↔ (sumNow s).natAbs = threshold s.sens) ∧
    (t.dir ≠ .none → t.acc = 0) ∧
    (t.dir = .none → (t.acc.toInt - s.acc.toInt).natAbs ≤ 1) ∧
    (stepValue (previousSample s) (sampleOf s.pins) = 0 → t.dir = .none ∧ t.acc = s.acc)

/-- R109 (d): the UPDATE right after an event is never an event, whatever the pins show. -/
def Obligations.EventsNeverFollowDirectly : Prop :=
  ∀ (s t u : State) (p : Pins), exec .update s = .next t → t.dir ≠ .none →
    exec .update { t with pins := p } = .next u → u.dir = .none

/-- R109 (f): a step and its reverse net 0, in states within R37's bound in which the first of the two is no event. -/
def Obligations.StepAndReverseNetZero : Prop :=
  ∀ (s t u : State) (p q : Pins), accBound s = true → (sumNow { s with pins := p }).natAbs < threshold s.sens →
    sampleOf q = previousSample s → exec .update { s with pins := p } = .next t →
    exec .update { t with pins := q } = .next u → t.dir = .none ∧ u.acc = s.acc ∧ u.dir = .none

/-- R109 (c): from ACC = 0, an event fires at the first UPDATE at which the sum of the table values reaches plus or minus
the magnitude, and at none before it. -/
def Obligations.ThresholdCountsNetValidSteps : Prop :=
  ∀ (s : State) (ps : List Pins), s.live = true → s.acc = 0 →
    (∀ k, k ≤ ps.length → (netSteps (previousSample s) (ps.take k)).natAbs < threshold s.sens) →
    ∃ t, updates ps s = .next t ∧ t.acc.toInt = netSteps (previousSample s) ps ∧ (ps ≠ [] → t.dir = .none) ∧
      ∀ p, (netSteps (previousSample s) (ps ++ [p])).natAbs = threshold s.sens →
        ∃ u, exec .update { t with pins := p } = .next u ∧ u.acc = 0 ∧
          u.dir = if 0 < netSteps (previousSample s) (ps ++ [p]) then .clockwise else .anticlockwise

/-- R110 (with R84's codes): GETDIR. -/
def Obligations.GetdirRespondsAndClearsNothing : Prop :=
  (∀ s : State,
    (s.live = true →
      let v : Word64 := match s.dir with
        | .none => 0x0000000000000000
        | .clockwise => 0x0000000000000001
        | .anticlockwise => 0x0000000000000002
      exec .getdir s = .next { s with rsp := some v, outputs := s.outputs ++ [v] }) ∧
    (s.live = false → exec .getdir s = .refused .notLive)) ∧
  ∀ arg : Word64, arg ≠ 0 → decode (0x3#4 ++ arg) = .error .reservedBits

/-- R111, R147: the two borrows change nothing and respond nothing. -/
def Obligations.BorrowsChangeNothing : Prop :=
  (∀ s : State,
    (s.live = true →
      exec .borrowpins s = .next s ∧ (s.cfg.hasVelocity = true → exec .borrowinner s = .next s)) ∧
    (s.live = false →
      exec .borrowpins s = .refused .notLive ∧
      (s.cfg.hasVelocity = true → exec .borrowinner s = .refused .notLive)) ∧
    (s.cfg.hasVelocity = false → exec .borrowinner s = .refused .noVelocityUnit)) ∧
  ∀ arg : Word64, arg ≠ 0 →
    decode (0x4#4 ++ arg) = .error .reservedBits ∧ decode (0x6#4 ++ arg) = .error .reservedBits

/-- R112: RELEASE; afterwards every legal command but CONSTRUCT is refused with NotLive, and CONSTRUCT overwrites
every element. -/
def Obligations.ReleaseClearsOnlyLive : Prop :=
  (∀ s : State,
    (s.live = true → exec .release s = .next { s with live := false }) ∧
    (s.live = false → exec .release s = .refused .notLive)) ∧
  (∀ (s t : State) (i : Instr), exec .release s = .next t → i.wellFormed = true →
    s.cfg.hasVelocity = true ∨ i.needsVelocity = false → i ≠ .construct → exec i t = .refused .notLive) ∧
  (∀ s t : State, exec .release s = .next t →
    exec .construct t = .next
      (if s.cfg.hasVelocity then
        { s with hist := 0x00, acc := 0, dir := .none, sens := .default, live := true, vel := 0x00000000,
                 incf := 0x3E4CCCCD, decf := 0x3C23D70A, win := 25, tlast := 0 }
       else { s with hist := 0x00, acc := 0, dir := .none, sens := .default, live := true })) ∧
  ∀ arg : Word64, arg ≠ 0 → decode (0x5#4 ++ arg) = .error .reservedBits

/-- R51, R53, R54: the table read from R54's constant is R51's list and R53's closed form, with R53's four symmetries. -/
def Obligations.TransitionTableIsTheGrayCodeCycle : Prop :=
  (∀ i : BitVec 4, tblRead i =
    ([0, 1, -1, 0, -1, 0, 0, 1, 1, 0, 0, -1, 0, -1, 1, 0] : List Int).getD i.toNat 0) ∧
  ∀ p c : Sample,
    tblRead (p ++ c) = stepValue p c ∧
    tblRead (c ++ p) = -tblRead (p ++ c) ∧
    tblRead ((p.extractLsb' 0 1 ++ p.extractLsb' 1 1) ++ (c.extractLsb' 0 1 ++ c.extractLsb' 1 1)) =
      -tblRead (p ++ c) ∧
    tblRead (~~~p ++ ~~~c) = tblRead (p ++ c) ∧
    (tblRead (p ++ c) = 0 ↔ p = c ∨ p = ~~~c)

/-- R57, R58: the pins reach a command only as effective levels, a failed read as low, and reach no command but UPDATE
and TUPDATE at all. -/
def Obligations.PinsMatterOnlyAsEffectiveLevels : Prop :=
  (∀ (i : Instr) (s : State) (p q : Pins),
    ((p.a && !p.aErr) = (q.a && !q.aErr) ∧ (p.b && !p.bErr) = (q.b && !q.bErr)) ∨
      (i ≠ .update ∧ ∀ t, i ≠ .tupdate t) →
    exec i { s with pins := q } = mapNext (fun t => { t with pins := q }) (exec i { s with pins := p })) ∧
  ∀ (l b e : Bool), pinSample ⟨l, true, b, e⟩ = pinSample ⟨false, false, b, e⟩ ∧
    pinSample ⟨b, e, l, true⟩ = pinSample ⟨b, e, false, false⟩

/-! ### Commands of unit VT -/

/-- R137 (the inner UPDATE as in R103, R135): a TUPDATE without an event records its timestamp. -/
def Obligations.QuietTupdateRecordsItsTimestamp : Prop :=
  ∀ (s : State) (t : Millis), s.cfg.hasVelocity = true → s.live = true →
    -128 ≤ sumNow s → sumNow s ≤ 127 → (sumNow s).natAbs ≠ threshold s.sens →
    exec (.tupdate t) s = .next { s with
      hist := historyNow s, acc := BitVec.ofInt 8 (sumNow s), dir := .none, tlast := t }

/-- R136, with R138's elapsed time: a TUPDATE with an event and a legal INCF raises VEL when the time since TLAST is below
WIN and VEL is below 1.0, and never writes TLAST. The other premise leaves out only R174's model outcome (log entry 4);
`draws` is the model's own counter (log entry 5). -/
def Obligations.EventTupdateRaisesVelocityInsideTheWindow : Prop :=
  ∀ (s : State) (t : Millis), s.cfg.hasVelocity = true → s.live = true →
    (sumNow s).natAbs = threshold s.sens → s.cfg.strict = false ∨ s.tlast.toNat ≤ t.toNat →
    let u : State := { s with
      hist := historyNow s, acc := 0, dir := if 0 < sumNow s then .clockwise else .anticlockwise }
    let e : Nat := (t.toNat + 2 ^ 64 - s.tlast.toNat) % 2 ^ 64
    let sum : F32 := fadd (Config.anyF32 s.draws) s.vel s.incf
    (e < s.win.toNat ∧ flt s.vel 0x3F800000 = true → legalFactor s.incf = true →
      exec (.tupdate t) s = .next { u with
        vel := if fgt sum 0x3F800000 then 0x3F800000 else sum, draws := s.draws + 1 }) ∧
    (¬ (e < s.win.toNat ∧ flt s.vel 0x3F800000 = true) → exec (.tupdate t) s = .next u)

/-- R134, R136 and V-TUPD's rows for the extreme legal factors, for a VEL within R38's bound: the increment of a TUPDATE
brings VEL to 1.0 when INCF is plus infinity, leaves it as it is when INCF is a zero, and stays within the bound. The
premise on `strict` leaves out only R174's model outcome (log entry 4). -/
def Obligations.IncrementCornerCases : Prop :=
  ∀ (s : State) (t : Millis), s.cfg.hasVelocity = true → s.live = true →
    (sumNow s).natAbs = threshold s.sens → s.cfg.strict = false ∨ s.tlast.toNat ≤ t.toNat →
    (t.toNat + 2 ^ 64 - s.tlast.toNat) % 2 ^ 64 < s.win.toNat → flt s.vel 0x3F800000 = true →
    velBound s.vel = true → legalFactor s.incf = true →
    ∃ u, exec (.tupdate t) s = .next u ∧ velBound u.vel = true ∧
      (s.incf = 0x7F800000 → u.vel = 0x3F800000) ∧
      (s.incf = 0x00000000 ∨ s.incf = 0x80000000 → u.vel = s.vel)

/-- R140: a TUPDATE that reaches its addition with an illegal INCF, and a DECAY with an illegal DECF, give VEL the free
value `any_f32()` and write every other element as their rules say. That successive draws are the opaque constant at
successive values of `draws` is the model's form of it (log entry 5). -/
def Obligations.IllegalFactorGivesAFreeValue : Prop :=
  ∀ (s : State) (t : Millis), s.cfg.hasVelocity = true → s.live = true →
    (legalFactor s.decf = false →
      exec .decay s = .next { s with vel := Config.anyF32 s.draws, draws := s.draws + 1 }) ∧
    (legalFactor s.incf = false → (sumNow s).natAbs = threshold s.sens →
      s.cfg.strict = false ∨ s.tlast.toNat ≤ t.toNat →
      (t.toNat + 2 ^ 64 - s.tlast.toNat) % 2 ^ 64 < s.win.toNat → flt s.vel 0x3F800000 = true →
      exec (.tupdate t) s = .next { s with
        hist := historyNow s, acc := 0, dir := if 0 < sumNow s then .clockwise else .anticlockwise,
        vel := Config.anyF32 s.draws, draws := s.draws + 1 })

/-- R138, R174: TimeBackwards. The modular difference is the spec's decision D9, and which outcome a machine takes is
the model's parameter (log entry 4). -/
def Obligations.BackwardTimestampHasAHugeElapsedTime : Prop :=
  ∀ (s : State) (t : Millis), s.cfg.hasVelocity = true → s.live = true →
    (sumNow s).natAbs = threshold s.sens → t.toNat < s.tlast.toNat →
    (s.cfg.strict = true → exec (.tupdate t) s = .fault .timeBackwards) ∧
    (s.cfg.strict = false → s.win.toNat ≤ 2 ^ 64 - s.tlast.toNat →
      exec (.tupdate t) s = .next { s with
        hist := historyNow s, acc := 0, dir := if 0 < sumNow s then .clockwise else .anticlockwise })

/-- R134: what TUPDATE does not do: without the unit, or while not live, it is refused, and every operand is admitted. -/
def Obligations.TupdateIsRefusedOnlyForUnitOrLife : Prop :=
  (∀ (s : State) (t : Millis),
    (s.cfg.hasVelocity = false → exec (.tupdate t) s = .refused .noVelocityUnit) ∧
    (s.cfg.hasVelocity = true → s.live = false → exec (.tupdate t) s = .refused .notLive) ∧
    (s.cfg.hasVelocity = true → s.live = true → ∀ r, exec (.tupdate t) s ≠ .refused r)) ∧
  ∀ t : Millis, decode (0x8#4 ++ t) = .ok (.tupdate t)

/-- R139: DECAY with a legal factor, and its refusals. `draws` is the model's own counter (log entry 5). -/
def Obligations.DecaySubtractsAndClampsAtZero : Prop :=
  (∀ s : State,
    (s.cfg.hasVelocity = true → s.live = true →
      let v : F32 := fsub (Config.anyF32 s.draws) s.vel s.decf
      legalFactor s.decf = true →
        exec .decay s = .next { s with
          vel := if flt v 0x00000000 then 0x00000000 else v, draws := s.draws + 1 }) ∧
    (s.cfg.hasVelocity = false → exec .decay s = .refused .noVelocityUnit) ∧
    (s.cfg.hasVelocity = true → s.live = false → exec .decay s = .refused .notLive)) ∧
  ∀ arg : Word64, arg ≠ 0 → decode (0x9#4 ++ arg) = .error .reservedBits

/-- R139's corner cases, for a VEL within R38's bound. -/
def Obligations.DecayCornerCases : Prop :=
  ∀ s t : State, velBound s.vel = true → legalFactor s.decf = true → exec .decay s = .next t →
    (s.vel = 0x00000000 → t.vel = 0x00000000) ∧
    (s.decf = 0x00000000 ∨ s.decf = 0x80000000 → t.vel = s.vel) ∧
    (s.decf = 0x7F800000 → t.vel = 0x00000000)

/-- R142, R143, R144: the three setters store any operand and touch nothing else. -/
def Obligations.SettersStoreAnyOperand : Prop :=
  (∀ (s : State) (f : F32) (ms : Millis),
    (s.cfg.hasVelocity = true → s.live = true →
      exec (.setinc f) s = .next { s with incf := f } ∧ exec (.setdec f) s = .next { s with decf := f } ∧
      exec (.setwin ms) s = .next { s with win := ms }) ∧
    (s.cfg.hasVelocity = false →
      exec (.setinc f) s = .refused .noVelocityUnit ∧ exec (.setdec f) s = .refused .noVelocityUnit ∧
      exec (.setwin ms) s = .refused .noVelocityUnit) ∧
    (s.cfg.hasVelocity = true → s.live = false →
      exec (.setinc f) s = .refused .notLive ∧ exec (.setdec f) s = .refused .notLive ∧
      exec (.setwin ms) s = .refused .notLive)) ∧
  (∀ arg : Word64, arg.extractLsb' 32 32 ≠ 0 →
    decode (0xA#4 ++ arg) = .error .reservedBits ∧ decode (0xB#4 ++ arg) = .error .reservedBits) ∧
  (∀ f : F32, decode (0xA#4 ++ f.setWidth 64) = .ok (.setinc f) ∧ decode (0xB#4 ++ f.setWidth 64) = .ok (.setdec f)) ∧
  ∀ ms : Millis, decode (0xC#4 ++ ms) = .ok (.setwin ms)

/-- R146 (with R84): GETVEL. -/
def Obligations.GetvelRespondsWithThePattern : Prop :=
  (∀ s : State,
    (s.cfg.hasVelocity = true → s.live = true →
      exec .getvel s = .next { s with
        rsp := some (0x00000000#32 ++ s.vel), outputs := s.outputs ++ [0x00000000#32 ++ s.vel] }) ∧
    (s.cfg.hasVelocity = false → exec .getvel s = .refused .noVelocityUnit) ∧
    (s.cfg.hasVelocity = true → s.live = false → exec .getvel s = .refused .notLive)) ∧
  ∀ arg : Word64, arg ≠ 0 → decode (0xD#4 ++ arg) = .error .reservedBits

/-! ### The binary32 arithmetic -/

/-- R132: which patterns are legal factors. -/
def Obligations.LegalFactorsAreThesePatterns : Prop :=
  ∀ f : F32, legalFactor f = true ↔ f.toNat ≤ 0x7F800000 ∨ f = 0x80000000

/-- R131: the sum of two finite numbers is the nearest binary32 number to the exact sum, a tie to the even pattern,
infinite exactly from half a unit in the last place above the largest finite number on and then of the exact sum's sign,
and an exact zero is positive unless both operands are negative zeros; a NaN operand, or infinities of opposite sign, give
a NaN, whose pattern no rule states and every one of which is possible (log entry 6); otherwise an infinite operand is the
sum; the difference is the sum with the negated operand. That is IEEE 754's, which R131 takes from general knowledge (log
entry 9). -/
def Obligations.SumsAreRoundedToNearestEven : Prop :=
  ∀ r x y : F32,
    let v : Int := fVal x + fVal y
    let z : F32 := fadd r x y
    (isNaN x = false → isInf x = false → isNaN y = false → isInf y = false →
      isNaN z = false ∧ (isInf z = true ↔ (2 ^ 25 - 1) * 2 ^ 252 ≤ v.natAbs) ∧
      (isInf z = true → z = if 0 < v then 0x7F800000 else 0xFF800000) ∧
      (isInf z = false → ∀ c : F32, isNaN c = false → isInf c = false →
        (fVal z - v).natAbs ≤ (fVal c - v).natAbs ∧
        ((fVal c - v).natAbs = (fVal z - v).natAbs → fVal c ≠ fVal z → z.toNat % 2 = 0)) ∧
      (v = 0 → z = if x = 0x80000000 ∧ y = 0x80000000 then 0x80000000 else 0x00000000)) ∧
    (isNaN x = true ∨ isNaN y = true ∨ (isInf x = true ∧ isInf y = true ∧ x ≠ y) →
      isNaN z = true ∧ ∀ n : F32, isNaN n = true → ∃ q, fadd q x y = n) ∧
    (isInf x = true → isNaN y = false → (isInf y = true → y = x) → z = x) ∧
    (isInf y = true → isNaN x = false → isInf x = false → z = y) ∧
    fsub r x y = fadd r x (y ^^^ 0x80000000) ∧ fVal (y ^^^ 0x80000000) = -fVal y

/-- R131: "less than" on patterns: false on a NaN, otherwise the order of the patterns read as sign and magnitude, the
two zeros equal; "greater than" is its converse. -/
def Obligations.ComparisonIsSignMagnitudeOrder : Prop :=
  ∀ x y : F32,
    let key : F32 → Int := fun z => if z.msb then -((z.toNat % 2 ^ 31 : Nat) : Int) else ((z.toNat % 2 ^ 31 : Nat) : Int)
    (flt x y = true ↔ isNaN x = false ∧ isNaN y = false ∧ key x < key y) ∧ fgt x y = flt y x

/-- R133: the ceiling and the floor: results past them become 1.0 and positive zero, all others stay. -/
def Obligations.ClampsCutAtOneAndAtZero : Prop :=
  ∀ x : F32,
    fgt (clampHi x) 0x3F800000 = false ∧ flt (clampLo x) 0x00000000 = false ∧
    (clampHi x = x ∨ (clampHi x = 0x3F800000 ∧ fgt x 0x3F800000 = true)) ∧
    (clampLo x = x ∨ (clampLo x = 0x00000000 ∧ flt x 0x00000000 = true))

/-- R141 (d): the increment chain with the CONSTRUCT value of INCF. -/
def Obligations.DefaultIncrementChain : Prop :=
  ∀ s : State, s.incf = 0x3E4CCCCD →
    (s.vel = 0x00000000 → incrementedVel s = 0x3E4CCCCD) ∧ (s.vel = 0x3E4CCCCD → incrementedVel s = 0x3ECCCCCD) ∧
    (s.vel = 0x3ECCCCCD → incrementedVel s = 0x3F19999A) ∧ (s.vel = 0x3F19999A → incrementedVel s = 0x3F4CCCCD) ∧
    (s.vel = 0x3F4CCCCD → incrementedVel s = 0x3F800000) ∧
    (s.vel = 0x3F800000 → ∀ t, incrementDue t s = false)

/-- R141 (e): with a legal factor DECAY never raises VEL, and 0.0 is held. Patterns from `0x00000000` to `0x3F800000` are
ordered as their values. -/
def Obligations.DecayNeverRaisesVelocity : Prop :=
  ∀ s t : State, velBound s.vel = true → legalFactor s.decf = true → exec .decay s = .next t →
    velBound t.vel = true ∧ t.vel.toNat ≤ s.vel.toNat ∧ (s.vel = 0x00000000 → t.vel = 0x00000000)

/-- R141 (f): with a factor of at least 2^-24 repeated DECAYs reach 0.0 and stay there. -/
def Obligations.DecayReachesZeroAndStays : Prop :=
  ∀ s : State, s.cfg.hasVelocity = true → s.live = true → velBound s.vel = true → legalFactor s.decf = true →
    0x33800000 ≤ s.decf.toNat → s.decf ≠ 0x80000000 →
    ∃ n, ∀ m, n ≤ m → ∃ t, repeated .decay m s = .next t ∧ t.vel = 0x00000000

/-! ### The whole machine -/

/-- R32's access table, for the writes: each element changes only by the commands its row marks with w; no command
changes the pins, the inputs to come or the parameters (R36), and only GETDIR and GETVEL respond (R72). -/
def Obligations.OnlyTheListedCommandsWriteAnElement : Prop :=
  ∀ (i : Instr) (s t : State), exec i s = .next t →
    (i ≠ .construct → i ≠ .update → (∀ n, i ≠ .tupdate n) → t.hist = s.hist ∧ t.acc = s.acc ∧ t.dir = s.dir) ∧
    (i ≠ .construct → (∀ m, i ≠ .setsens m) → t.sens = s.sens) ∧
    (i ≠ .construct → i ≠ .release → t.live = s.live) ∧
    (i ≠ .construct → (∀ n, i ≠ .tupdate n) → i ≠ .decay → t.vel = s.vel) ∧
    (i ≠ .construct → (∀ f, i ≠ .setinc f) → t.incf = s.incf) ∧
    (i ≠ .construct → (∀ f, i ≠ .setdec f) → t.decf = s.decf) ∧
    (i ≠ .construct → (∀ n, i ≠ .setwin n) → t.win = s.win) ∧
    (i ≠ .construct → (∀ n, i ≠ .tupdate n) → t.tlast = s.tlast) ∧
    (i ≠ .getdir → i ≠ .getvel → t.rsp = s.rsp ∧ t.outputs = s.outputs) ∧
    t.pins = s.pins ∧ t.inputs = s.inputs ∧ t.cfg = s.cfg

/-- R203, R172: while LIVE = 0 every legal command but CONSTRUCT is refused with NotLive. -/
def Obligations.NothingButConstructRunsWhileNotLive : Prop :=
  ∀ (s : State) (i : Instr), s.live = false → i.wellFormed = true →
    s.cfg.hasVelocity = true ∨ i.needsVelocity = false → i ≠ .construct → exec i s = .refused .notLive

/-- R3, R20, R82 (2): without unit VT its commands are refused and no step touches its five elements. -/
def Obligations.WithoutTheVelocityUnit : Prop :=
  ∀ s : State, s.cfg.hasVelocity = false →
    (∀ i : Instr, i.needsVelocity = true → exec i s = .refused .noVelocityUnit) ∧
    ∀ t, step s = .next t →
      t.vel = s.vel ∧ t.incf = s.incf ∧ t.decf = s.decf ∧ t.win = s.win ∧ t.tlast = s.tlast

/-- R170: in a machine that does what the hardware does (log entry 4), no command and no step ever faults. -/
def Obligations.HardwareNeverFaults : Prop :=
  ∀ s : State, s.cfg.strict = false →
    (∀ (i : Instr) (r : Fault), exec i s ≠ .fault r) ∧ ∀ r : Fault, step s ≠ .fault r

/-- R174, R207, R208: a host that keeps its obligations never meets a fault, and cannot tell which of R174's two
outcomes the machine would have taken. -/
def Obligations.ContractKeepingHostMeetsNoFault : Prop :=
  ∀ s : State, accBound s = true → hostContract s = true →
    (∀ r, step s ≠ .fault r) ∧
    step { s with cfg := { s.cfg with strict := !s.cfg.strict } } =
      mapNext (fun t => { t with cfg := { t.cfg with strict := !t.cfg.strict } }) (step s)

/-- R37: `abs(ACC) < SENS` is kept by every step, provided a SETSENS finds `abs(ACC)` below what it sets (R208). -/
def Obligations.AccumulatorStaysBelowSensitivity : Prop :=
  ∀ s t : State, accBound s = true →
    (∀ mag, nextCommand s = some (.setsens mag) → s.acc.toInt.natAbs < mag.toNat) →
    step s = .next t → accBound t = true

/-- R38, R141 (a): VEL stays a number in [0.0, 1.0] by every step, provided a TUPDATE finds INCF legal and a DECAY finds
DECF legal (R210). -/
def Obligations.VelocityStaysBetweenZeroAndOne : Prop :=
  ∀ s t : State, velBound s.vel = true →
    (∀ n, nextCommand s = some (.tupdate n) → legalFactor s.incf = true) →
    (nextCommand s = some .decay → legalFactor s.decf = true) →
    step s = .next t → velBound t.vel = true

/-- R105, R72, R84: what every step keeps, whatever the host does. -/
def Obligations.EveryStepKeepsTheInvariant : Prop :=
  ∀ s t : State, Inv s → step s = .next t → Inv t

/-- R37, R38, R41: the reset state meets the three invariants. -/
def Obligations.ResetMeetsTheInvariants : Prop :=
  Inv State.reset ∧ accBound State.reset = true ∧ velBound State.reset.vel = true

/-- R205 (2): the first TUPDATE after CONSTRUCT, whatever commands but UPDATE ran in between, is quiet and sets TLAST, 0
until then, to a real timestamp; VEL stays as it was, which is 0.0 if no DECAY ran. An UPDATE in between moves ACC without
writing TLAST (R148), so the rule's reason, "ACC goes from 0 to at most 1", is for none. -/
def Obligations.FirstTupdateIsQuiet : Prop :=
  ∀ (s t u : State) (is : List Instr) (p : Pins) (n : Millis),
    exec .construct s = .next t → s.cfg.hasVelocity = true →
    (∀ i ∈ is, i ≠ .update ∧ ∀ m, i ≠ .tupdate m) → commands is t = .next u → u.live = true →
    u.tlast = 0 ∧ (.decay ∉ is → u.vel = 0x00000000) ∧
    ∃ w, exec (.tupdate n) { u with pins := p } = .next w ∧ w.dir = .none ∧ w.acc.toInt.natAbs ≤ 1 ∧
      w.tlast = n ∧ w.vel = u.vel

/-- R35: two states that differ only in `HIST[7:4]` differ only there, and respond alike, however long they run on the
same inputs. -/
def Obligations.OldHistoryIsNeverObserved : Prop :=
  ∀ (n : Nat) (s s' : State), sameButOldHistory s s' → outcomeRel sameButOldHistory (portRun n s) (portRun n s')

/-- R41, R101: while LIVE = 0 the values of the other nine elements cannot be told apart by any sequence of inputs. -/
def Obligations.ElementsOfADeadBlockAreNeverObserved : Prop :=
  ∀ (n : Nat) (s s' : State), s.live = false → s'.live = false → sameView s s' →
    s'.cfg = s.cfg → s'.draws = s.draws → outcomeRel sameView (portRun n s) (portRun n s')
end

