-- ==== Sys2Proof/Laws/Decode.lean ====
section
/-! SUPPORT. The two fields of a command word (spec/30_encoding.md R70) and what each format's decoder accepts. -/

namespace Sys2Proof

/-- The opcode's place value in a word. -/
theorem toNat_fields (op : BitVec 4) (arg : Word64) :
    (op ++ arg : CommandWord).toNat = op.toNat * 2 ^ 64 + arg.toNat := by
  rw [BitVec.toNat_append, ← Nat.shiftLeft_add_eq_or_of_lt arg.isLt, Nat.shiftLeft_eq]

theorem toNat_opcodeOf (w : CommandWord) : (opcodeOf w).toNat = w.toNat / 2 ^ 64 := by
  have h := w.isLt
  simp only [opcodeOf, BitVec.extractLsb'_toNat, Nat.shiftRight_eq_div_pow]
  omega

theorem toNat_operandOf (w : CommandWord) : (operandOf w).toNat = w.toNat % 2 ^ 64 := by
  simp [operandOf, BitVec.extractLsb'_toNat]

theorem opcodeOf_append (op : BitVec 4) (arg : Word64) : opcodeOf (op ++ arg : CommandWord) = op := by
  refine BitVec.eq_of_toNat_eq ?_
  have h := arg.isLt
  rw [toNat_opcodeOf, toNat_fields]
  omega

theorem operandOf_append (op : BitVec 4) (arg : Word64) : operandOf (op ++ arg : CommandWord) = arg := by
  refine BitVec.eq_of_toNat_eq ?_
  have h := arg.isLt
  rw [toNat_operandOf, toNat_fields]
  omega

/-- A word is its opcode above its operand (R70). -/
theorem word_eq_fields (w : CommandWord) : (opcodeOf w ++ operandOf w : CommandWord) = w := by
  refine BitVec.eq_of_toNat_eq ?_
  rw [toNat_fields, toNat_opcodeOf, toNat_operandOf]
  omega

theorem decodeN_ok_iff {i j : Instr} {arg : Word64} : decodeN i arg = .ok j ↔ arg = 0 ∧ i = j := by
  unfold decodeN; split <;> simp_all

theorem decodeS_ok_iff {mk : BitVec 3 → Instr} {j : Instr} {arg : Word64} :
    decodeS mk arg = .ok j ↔ arg.extractLsb' 3 61 = 0 ∧ mk (arg.extractLsb' 0 3) = j := by
  unfold decodeS; split <;> simp_all

theorem decodeF_ok_iff {mk : F32 → Instr} {j : Instr} {arg : Word64} :
    decodeF mk arg = .ok j ↔ arg.extractLsb' 32 32 = 0 ∧ mk (arg.extractLsb' 0 32) = j := by
  unfold decodeF; split <;> simp_all

theorem decodeT_ok_iff {mk : Millis → Instr} {j : Instr} {arg : Word64} :
    decodeT mk arg = .ok j ↔ mk arg = j := by
  simp [decodeT]

end Sys2Proof
end

