-- ==== Sys2Proof/Laws/Float.lean ====
section
/-! SUPPORT. The rounding of spec/41_velocity.md R131 is monotone and exact on the numbers binary32 can hold, and
patterns of one sign are ordered as their values. -/

namespace Sys2Proof.Machine

theorem fFrac_lt (x : F32) : fFrac x < 2 ^ 23 := (x.extractLsb' 0 23).isLt

theorem fExp_lt (x : F32) : fExp x < 2 ^ 8 := (x.extractLsb' 23 8).isLt

/-- The three fields make up the pattern. -/
theorem toNat_eq_fields (x : F32) : x.toNat = (if fSign x then 2 ^ 31 else 0) + fExp x * 2 ^ 23 + fFrac x := by
  have h := x.isLt
  simp only [fSign, fExp, fFrac, BitVec.extractLsb'_toNat, BitVec.msb_eq_decide, Nat.shiftRight_eq_div_pow,
    decide_eq_true_eq]
  split <;> omega

theorem toNat_mod_eq_fields (x : F32) : x.toNat % 2 ^ 31 = fExp x * 2 ^ 23 + fFrac x := by
  have h := toNat_eq_fields x
  have he := fExp_lt x
  have hf := fFrac_lt x
  split at h <;> omega

theorem isNaN_eq_false_iff (x : F32) : isNaN x = false ↔ x.toNat % 2 ^ 31 ≤ 0x7F800000 := by
  have he := fExp_lt x
  have hf := fFrac_lt x
  rw [toNat_mod_eq_fields]
  simp only [isNaN, Bool.and_eq_false_iff, beq_eq_false_iff_ne, bne_eq_false_iff_eq]
  omega

theorem isInf_eq_true_iff (x : F32) : isInf x = true ↔ x.toNat % 2 ^ 31 = 0x7F800000 := by
  have he := fExp_lt x
  have hf := fFrac_lt x
  rw [toNat_mod_eq_fields]
  simp only [isInf, Bool.and_eq_true, beq_iff_eq]
  omega

/-- The quotient of the rounding is a 24-bit significand as soon as anything is dropped. -/
theorem significand_bounds (n : Nat) (h : 2 ^ 24 ≤ n) :
    2 ^ 23 ≤ n / 2 ^ (n.log2 - 23) ∧ n / 2 ^ (n.log2 - 23) < 2 ^ 24 := by
  have hn : n ≠ 0 := by omega
  have hl : 24 ≤ n.log2 := (Nat.le_log2 hn).2 h
  have hlo := Nat.log2_self_le hn
  have hhi : n < 2 ^ (n.log2 + 1) := Nat.lt_log2_self
  constructor
  · rw [Nat.le_div_iff_mul_le (by positivity), ← pow_add]
    simpa [show 23 + (n.log2 - 23) = n.log2 by omega] using hlo
  · rw [Nat.div_lt_iff_lt_mul (by positivity), ← pow_add]
    simpa [show 24 + (n.log2 - 23) = n.log2 + 1 by omega] using hhi

theorem roundMag_of_lt (n : Nat) (h : n < 2 ^ 24) : roundMag n = n := by
  have hk : n.log2 - 23 = 0 := by
    by_cases hn : n = 0
    · simp [hn]
    · have := (Nat.log2_lt hn).2 h; omega
  simp only [roundMag, hk, pow_zero, Nat.div_one, Nat.mod_one]
  simp only [Nat.mul_zero, Nat.not_lt_zero, zero_ne_one, false_and, or_false, if_false]
  omega

theorem roundMag_le_inf (n : Nat) : roundMag n ≤ 0x7F800000 := Nat.min_le_right _ _

/-- Rounding a quotient to the nearest, ties to even, is monotone. -/
theorem roundQuotient_mono (p n m : Nat) (hnm : n ≤ m) :
    n / p + (if p < 2 * (n % p) ∨ (2 * (n % p) = p ∧ n / p % 2 = 1) then 1 else 0) ≤
      m / p + (if p < 2 * (m % p) ∨ (2 * (m % p) = p ∧ m / p % 2 = 1) then 1 else 0) := by
  have hq : n / p ≤ m / p := Nat.div_le_div_right hnm
  rcases Nat.lt_or_eq_of_le hq with h | h
  · split <;> split <;> omega
  · have hr : n % p ≤ m % p := by
      have h1 := Nat.div_add_mod n p
      have h2 := Nat.div_add_mod m p
      rw [h] at h1
      omega
    rw [h]
    split <;> split <;> omega

theorem roundMag_mono {n m : Nat} (hnm : n ≤ m) : roundMag n ≤ roundMag m := by
  have key : (n.log2 - 23) * 2 ^ 23 + n / 2 ^ (n.log2 - 23) +
      (if 2 ^ (n.log2 - 23) < 2 * (n % 2 ^ (n.log2 - 23)) ∨
        (2 * (n % 2 ^ (n.log2 - 23)) = 2 ^ (n.log2 - 23) ∧ n / 2 ^ (n.log2 - 23) % 2 = 1) then 1 else 0) ≤
      (m.log2 - 23) * 2 ^ 23 + m / 2 ^ (m.log2 - 23) +
      (if 2 ^ (m.log2 - 23) < 2 * (m % 2 ^ (m.log2 - 23)) ∨
        (2 * (m % 2 ^ (m.log2 - 23)) = 2 ^ (m.log2 - 23) ∧ m / 2 ^ (m.log2 - 23) % 2 = 1) then 1 else 0) := by
    have hlog : n.log2 ≤ m.log2 := by
      by_cases hn : n = 0
      · simp [hn]
      · exact (Nat.le_log2 (by omega)).2 (le_trans (Nat.log2_self_le hn) hnm)
    rcases Nat.lt_or_eq_of_le (Nat.sub_le_sub_right hlog 23) with h | h
    · have hm : 2 ^ 24 ≤ m := by
        have hm0 : m ≠ 0 := by rintro rfl; simp at h
        exact (Nat.le_log2 hm0).1 (by omega)
      have hq := (significand_bounds m hm).1
      have hn : n / 2 ^ (n.log2 - 23) < 2 ^ 24 := by
        by_cases hn : 2 ^ 24 ≤ n
        · exact (significand_bounds n hn).2
        · exact lt_of_le_of_lt (Nat.div_le_self _ _) (by omega)
      split <;> split <;> omega
    · rw [h]
      have := roundQuotient_mono (2 ^ (m.log2 - 23)) n m hnm
      omega
  exact min_le_min key le_rfl

/-- Every number binary32 holds rounds to itself. -/
theorem roundMag_fMag (x : F32) (h : isNaN x = false) : roundMag (fMag x) = x.toNat % 2 ^ 31 := by
  have hf := fFrac_lt x
  have hn := (isNaN_eq_false_iff x).1 h
  rw [toNat_mod_eq_fields] at hn ⊢
  unfold fMag
  split
  · rename_i he
    rw [roundMag_of_lt _ (by omega), he]; omega
  · rename_i he
    have hpos : 0 < 2 ^ (fExp x - 1) := by positivity
    have hlog : ((2 ^ 23 + fFrac x) * 2 ^ (fExp x - 1)).log2 = 23 + (fExp x - 1) := by
      rw [Nat.log2_eq_iff (Nat.mul_ne_zero (by omega) hpos.ne')]
      refine ⟨?_, ?_⟩
      · rw [pow_add]; exact Nat.mul_le_mul_right _ (by omega)
      · rw [show 23 + (fExp x - 1) + 1 = 24 + (fExp x - 1) by omega, pow_add]
        exact Nat.mul_lt_mul_of_pos_right (by omega) hpos
    simp only [roundMag, hlog, Nat.add_sub_cancel_left]
    rw [Nat.mul_div_cancel _ hpos, Nat.mul_mod_left]
    have hne : ¬ (2 ^ (fExp x - 1) < 2 * 0 ∨ (2 * 0 = 2 ^ (fExp x - 1) ∧ (2 ^ 23 + fFrac x) % 2 = 1)) := by omega
    rw [if_neg hne]
    omega

/-- Patterns of one sign are ordered as their magnitudes. -/
theorem fMag_lt_iff (x y : F32) (hx : isNaN x = false) (hy : isNaN y = false) :
    fMag x < fMag y ↔ x.toNat % 2 ^ 31 < y.toNat % 2 ^ 31 := by
  constructor
  · intro h
    have hle := roundMag_mono h.le
    rw [roundMag_fMag x hx, roundMag_fMag y hy] at hle
    rcases Nat.lt_or_eq_of_le hle with h' | h'
    · exact h'
    · exfalso
      rw [toNat_mod_eq_fields, toNat_mod_eq_fields] at h'
      have := fFrac_lt x
      have := fFrac_lt y
      have he : fExp x = fExp y := by omega
      have hf : fFrac x = fFrac y := by omega
      simp [fMag, he, hf] at h
  · intro h
    by_contra hc
    have hle := roundMag_mono (Nat.le_of_not_lt hc)
    rw [roundMag_fMag x hx, roundMag_fMag y hy] at hle
    omega

theorem toNat_roundUnits (i : Int) :
    (roundUnits i).toNat = (if i < 0 then 2 ^ 31 else 0) + roundMag i.natAbs := by
  have := roundMag_le_inf i.natAbs
  simp only [roundUnits, BitVec.toNat_ofNat]
  split <;> omega

/-- A rounded result is never a NaN. -/
theorem isNaN_roundUnits (i : Int) : isNaN (roundUnits i) = false := by
  rw [isNaN_eq_false_iff, toNat_roundUnits]
  have := roundMag_le_inf i.natAbs
  split <;> omega

/-- For every pattern there is a NaN made of it. -/
theorem isNaN_asNaN (r : F32) : isNaN (asNaN r) = true := by
  have he : ∀ m : F32, m.extractLsb' 23 8 = 255 → fExp (r ||| m) = 255 := by
    intro m hm
    have : (r ||| m).extractLsb' 23 8 = 255 := by
      rw [BitVec.extractLsb'_or, hm]
      exact BitVec.or_allOnes
    simp [fExp, this]
  unfold asNaN
  split
  · rename_i h
    have h0 : r.extractLsb' 0 23 = 0 := BitVec.eq_of_toNat_eq (by simpa [fFrac] using h)
    have hf : (r ||| 0x7FC00000).extractLsb' 0 23 = 0x400000 := by
      rw [BitVec.extractLsb'_or, h0]; decide
    simp only [isNaN, he 0x7FC00000 (by decide), fFrac, hf, beq_self_eq_true, Bool.true_and]
    decide
  · rename_i h
    have hf : (r ||| 0x7F800000).extractLsb' 0 23 = r.extractLsb' 0 23 := by
      rw [BitVec.extractLsb'_or]
      have : (0x7F800000 : F32).extractLsb' 0 23 = 0 := by decide
      rw [this]; exact BitVec.or_zero
    simp only [isNaN, he 0x7F800000 (by decide), fFrac, hf, beq_self_eq_true, Bool.true_and, bne_iff_ne]
    exact h

end Sys2Proof.Machine
end

