-- ==== Sys2Proof/Laws/State.lean ====
section
/-! SUPPORT. What each named update of the state does to each field: one lemma per field per update. -/

namespace Sys2Proof.Machine

@[simp] theorem State.writeDecoder_hist (s : State) (h a : BitVec 8) (d : Direction) : (s.writeDecoder h a d).hist = h := rfl
@[simp] theorem State.writeDecoder_acc (s : State) (h a : BitVec 8) (d : Direction) : (s.writeDecoder h a d).acc = a := rfl
@[simp] theorem State.writeDecoder_dir (s : State) (h a : BitVec 8) (d : Direction) : (s.writeDecoder h a d).dir = d := rfl
@[simp] theorem State.writeDecoder_sens (s : State) (h a : BitVec 8) (d : Direction) : (s.writeDecoder h a d).sens = s.sens := rfl
@[simp] theorem State.writeDecoder_live (s : State) (h a : BitVec 8) (d : Direction) : (s.writeDecoder h a d).live = s.live := rfl
@[simp] theorem State.writeDecoder_vel (s : State) (h a : BitVec 8) (d : Direction) : (s.writeDecoder h a d).vel = s.vel := rfl
@[simp] theorem State.writeDecoder_incf (s : State) (h a : BitVec 8) (d : Direction) : (s.writeDecoder h a d).incf = s.incf := rfl
@[simp] theorem State.writeDecoder_decf (s : State) (h a : BitVec 8) (d : Direction) : (s.writeDecoder h a d).decf = s.decf := rfl
@[simp] theorem State.writeDecoder_win (s : State) (h a : BitVec 8) (d : Direction) : (s.writeDecoder h a d).win = s.win := rfl
@[simp] theorem State.writeDecoder_tlast (s : State) (h a : BitVec 8) (d : Direction) : (s.writeDecoder h a d).tlast = s.tlast := rfl
@[simp] theorem State.writeDecoder_pins (s : State) (h a : BitVec 8) (d : Direction) : (s.writeDecoder h a d).pins = s.pins := rfl
@[simp] theorem State.writeDecoder_inputs (s : State) (h a : BitVec 8) (d : Direction) : (s.writeDecoder h a d).inputs = s.inputs := rfl
@[simp] theorem State.writeDecoder_rsp (s : State) (h a : BitVec 8) (d : Direction) : (s.writeDecoder h a d).rsp = s.rsp := rfl
@[simp] theorem State.writeDecoder_outputs (s : State) (h a : BitVec 8) (d : Direction) : (s.writeDecoder h a d).outputs = s.outputs := rfl
@[simp] theorem State.writeDecoder_draws (s : State) (h a : BitVec 8) (d : Direction) : (s.writeDecoder h a d).draws = s.draws := rfl
@[simp] theorem State.writeDecoder_cfg (s : State) (h a : BitVec 8) (d : Direction) : (s.writeDecoder h a d).cfg = s.cfg := rfl

@[simp] theorem State.writeSens_hist (s : State) (m : Sensitivity) : (s.writeSens m).hist = s.hist := rfl
@[simp] theorem State.writeSens_acc (s : State) (m : Sensitivity) : (s.writeSens m).acc = s.acc := rfl
@[simp] theorem State.writeSens_dir (s : State) (m : Sensitivity) : (s.writeSens m).dir = s.dir := rfl
@[simp] theorem State.writeSens_sens (s : State) (m : Sensitivity) : (s.writeSens m).sens = m := rfl
@[simp] theorem State.writeSens_live (s : State) (m : Sensitivity) : (s.writeSens m).live = s.live := rfl
@[simp] theorem State.writeSens_vel (s : State) (m : Sensitivity) : (s.writeSens m).vel = s.vel := rfl
@[simp] theorem State.writeSens_incf (s : State) (m : Sensitivity) : (s.writeSens m).incf = s.incf := rfl
@[simp] theorem State.writeSens_decf (s : State) (m : Sensitivity) : (s.writeSens m).decf = s.decf := rfl
@[simp] theorem State.writeSens_win (s : State) (m : Sensitivity) : (s.writeSens m).win = s.win := rfl
@[simp] theorem State.writeSens_tlast (s : State) (m : Sensitivity) : (s.writeSens m).tlast = s.tlast := rfl
@[simp] theorem State.writeSens_pins (s : State) (m : Sensitivity) : (s.writeSens m).pins = s.pins := rfl
@[simp] theorem State.writeSens_inputs (s : State) (m : Sensitivity) : (s.writeSens m).inputs = s.inputs := rfl
@[simp] theorem State.writeSens_rsp (s : State) (m : Sensitivity) : (s.writeSens m).rsp = s.rsp := rfl
@[simp] theorem State.writeSens_outputs (s : State) (m : Sensitivity) : (s.writeSens m).outputs = s.outputs := rfl
@[simp] theorem State.writeSens_draws (s : State) (m : Sensitivity) : (s.writeSens m).draws = s.draws := rfl
@[simp] theorem State.writeSens_cfg (s : State) (m : Sensitivity) : (s.writeSens m).cfg = s.cfg := rfl

@[simp] theorem State.writeLive_hist (s : State) (b : Bool) : (s.writeLive b).hist = s.hist := rfl
@[simp] theorem State.writeLive_acc (s : State) (b : Bool) : (s.writeLive b).acc = s.acc := rfl
@[simp] theorem State.writeLive_dir (s : State) (b : Bool) : (s.writeLive b).dir = s.dir := rfl
@[simp] theorem State.writeLive_sens (s : State) (b : Bool) : (s.writeLive b).sens = s.sens := rfl
@[simp] theorem State.writeLive_live (s : State) (b : Bool) : (s.writeLive b).live = b := rfl
@[simp] theorem State.writeLive_vel (s : State) (b : Bool) : (s.writeLive b).vel = s.vel := rfl
@[simp] theorem State.writeLive_incf (s : State) (b : Bool) : (s.writeLive b).incf = s.incf := rfl
@[simp] theorem State.writeLive_decf (s : State) (b : Bool) : (s.writeLive b).decf = s.decf := rfl
@[simp] theorem State.writeLive_win (s : State) (b : Bool) : (s.writeLive b).win = s.win := rfl
@[simp] theorem State.writeLive_tlast (s : State) (b : Bool) : (s.writeLive b).tlast = s.tlast := rfl
@[simp] theorem State.writeLive_pins (s : State) (b : Bool) : (s.writeLive b).pins = s.pins := rfl
@[simp] theorem State.writeLive_inputs (s : State) (b : Bool) : (s.writeLive b).inputs = s.inputs := rfl
@[simp] theorem State.writeLive_rsp (s : State) (b : Bool) : (s.writeLive b).rsp = s.rsp := rfl
@[simp] theorem State.writeLive_outputs (s : State) (b : Bool) : (s.writeLive b).outputs = s.outputs := rfl
@[simp] theorem State.writeLive_draws (s : State) (b : Bool) : (s.writeLive b).draws = s.draws := rfl
@[simp] theorem State.writeLive_cfg (s : State) (b : Bool) : (s.writeLive b).cfg = s.cfg := rfl

@[simp] theorem State.writeVel_hist (s : State) (v : F32) : (s.writeVel v).hist = s.hist := rfl
@[simp] theorem State.writeVel_acc (s : State) (v : F32) : (s.writeVel v).acc = s.acc := rfl
@[simp] theorem State.writeVel_dir (s : State) (v : F32) : (s.writeVel v).dir = s.dir := rfl
@[simp] theorem State.writeVel_sens (s : State) (v : F32) : (s.writeVel v).sens = s.sens := rfl
@[simp] theorem State.writeVel_live (s : State) (v : F32) : (s.writeVel v).live = s.live := rfl
@[simp] theorem State.writeVel_vel (s : State) (v : F32) : (s.writeVel v).vel = v := rfl
@[simp] theorem State.writeVel_incf (s : State) (v : F32) : (s.writeVel v).incf = s.incf := rfl
@[simp] theorem State.writeVel_decf (s : State) (v : F32) : (s.writeVel v).decf = s.decf := rfl
@[simp] theorem State.writeVel_win (s : State) (v : F32) : (s.writeVel v).win = s.win := rfl
@[simp] theorem State.writeVel_tlast (s : State) (v : F32) : (s.writeVel v).tlast = s.tlast := rfl
@[simp] theorem State.writeVel_pins (s : State) (v : F32) : (s.writeVel v).pins = s.pins := rfl
@[simp] theorem State.writeVel_inputs (s : State) (v : F32) : (s.writeVel v).inputs = s.inputs := rfl
@[simp] theorem State.writeVel_rsp (s : State) (v : F32) : (s.writeVel v).rsp = s.rsp := rfl
@[simp] theorem State.writeVel_outputs (s : State) (v : F32) : (s.writeVel v).outputs = s.outputs := rfl
@[simp] theorem State.writeVel_draws (s : State) (v : F32) : (s.writeVel v).draws = s.draws + 1 := rfl
@[simp] theorem State.writeVel_cfg (s : State) (v : F32) : (s.writeVel v).cfg = s.cfg := rfl

@[simp] theorem State.writeIncf_hist (s : State) (f : F32) : (s.writeIncf f).hist = s.hist := rfl
@[simp] theorem State.writeIncf_acc (s : State) (f : F32) : (s.writeIncf f).acc = s.acc := rfl
@[simp] theorem State.writeIncf_dir (s : State) (f : F32) : (s.writeIncf f).dir = s.dir := rfl
@[simp] theorem State.writeIncf_sens (s : State) (f : F32) : (s.writeIncf f).sens = s.sens := rfl
@[simp] theorem State.writeIncf_live (s : State) (f : F32) : (s.writeIncf f).live = s.live := rfl
@[simp] theorem State.writeIncf_vel (s : State) (f : F32) : (s.writeIncf f).vel = s.vel := rfl
@[simp] theorem State.writeIncf_incf (s : State) (f : F32) : (s.writeIncf f).incf = f := rfl
@[simp] theorem State.writeIncf_decf (s : State) (f : F32) : (s.writeIncf f).decf = s.decf := rfl
@[simp] theorem State.writeIncf_win (s : State) (f : F32) : (s.writeIncf f).win = s.win := rfl
@[simp] theorem State.writeIncf_tlast (s : State) (f : F32) : (s.writeIncf f).tlast = s.tlast := rfl
@[simp] theorem State.writeIncf_pins (s : State) (f : F32) : (s.writeIncf f).pins = s.pins := rfl
@[simp] theorem State.writeIncf_inputs (s : State) (f : F32) : (s.writeIncf f).inputs = s.inputs := rfl
@[simp] theorem State.writeIncf_rsp (s : State) (f : F32) : (s.writeIncf f).rsp = s.rsp := rfl
@[simp] theorem State.writeIncf_outputs (s : State) (f : F32) : (s.writeIncf f).outputs = s.outputs := rfl
@[simp] theorem State.writeIncf_draws (s : State) (f : F32) : (s.writeIncf f).draws = s.draws := rfl
@[simp] theorem State.writeIncf_cfg (s : State) (f : F32) : (s.writeIncf f).cfg = s.cfg := rfl

@[simp] theorem State.writeDecf_hist (s : State) (f : F32) : (s.writeDecf f).hist = s.hist := rfl
@[simp] theorem State.writeDecf_acc (s : State) (f : F32) : (s.writeDecf f).acc = s.acc := rfl
@[simp] theorem State.writeDecf_dir (s : State) (f : F32) : (s.writeDecf f).dir = s.dir := rfl
@[simp] theorem State.writeDecf_sens (s : State) (f : F32) : (s.writeDecf f).sens = s.sens := rfl
@[simp] theorem State.writeDecf_live (s : State) (f : F32) : (s.writeDecf f).live = s.live := rfl
@[simp] theorem State.writeDecf_vel (s : State) (f : F32) : (s.writeDecf f).vel = s.vel := rfl
@[simp] theorem State.writeDecf_incf (s : State) (f : F32) : (s.writeDecf f).incf = s.incf := rfl
@[simp] theorem State.writeDecf_decf (s : State) (f : F32) : (s.writeDecf f).decf = f := rfl
@[simp] theorem State.writeDecf_win (s : State) (f : F32) : (s.writeDecf f).win = s.win := rfl
@[simp] theorem State.writeDecf_tlast (s : State) (f : F32) : (s.writeDecf f).tlast = s.tlast := rfl
@[simp] theorem State.writeDecf_pins (s : State) (f : F32) : (s.writeDecf f).pins = s.pins := rfl
@[simp] theorem State.writeDecf_inputs (s : State) (f : F32) : (s.writeDecf f).inputs = s.inputs := rfl
@[simp] theorem State.writeDecf_rsp (s : State) (f : F32) : (s.writeDecf f).rsp = s.rsp := rfl
@[simp] theorem State.writeDecf_outputs (s : State) (f : F32) : (s.writeDecf f).outputs = s.outputs := rfl
@[simp] theorem State.writeDecf_draws (s : State) (f : F32) : (s.writeDecf f).draws = s.draws := rfl
@[simp] theorem State.writeDecf_cfg (s : State) (f : F32) : (s.writeDecf f).cfg = s.cfg := rfl

@[simp] theorem State.writeWin_hist (s : State) (ms : Millis) : (s.writeWin ms).hist = s.hist := rfl
@[simp] theorem State.writeWin_acc (s : State) (ms : Millis) : (s.writeWin ms).acc = s.acc := rfl
@[simp] theorem State.writeWin_dir (s : State) (ms : Millis) : (s.writeWin ms).dir = s.dir := rfl
@[simp] theorem State.writeWin_sens (s : State) (ms : Millis) : (s.writeWin ms).sens = s.sens := rfl
@[simp] theorem State.writeWin_live (s : State) (ms : Millis) : (s.writeWin ms).live = s.live := rfl
@[simp] theorem State.writeWin_vel (s : State) (ms : Millis) : (s.writeWin ms).vel = s.vel := rfl
@[simp] theorem State.writeWin_incf (s : State) (ms : Millis) : (s.writeWin ms).incf = s.incf := rfl
@[simp] theorem State.writeWin_decf (s : State) (ms : Millis) : (s.writeWin ms).decf = s.decf := rfl
@[simp] theorem State.writeWin_win (s : State) (ms : Millis) : (s.writeWin ms).win = ms := rfl
@[simp] theorem State.writeWin_tlast (s : State) (ms : Millis) : (s.writeWin ms).tlast = s.tlast := rfl
@[simp] theorem State.writeWin_pins (s : State) (ms : Millis) : (s.writeWin ms).pins = s.pins := rfl
@[simp] theorem State.writeWin_inputs (s : State) (ms : Millis) : (s.writeWin ms).inputs = s.inputs := rfl
@[simp] theorem State.writeWin_rsp (s : State) (ms : Millis) : (s.writeWin ms).rsp = s.rsp := rfl
@[simp] theorem State.writeWin_outputs (s : State) (ms : Millis) : (s.writeWin ms).outputs = s.outputs := rfl
@[simp] theorem State.writeWin_draws (s : State) (ms : Millis) : (s.writeWin ms).draws = s.draws := rfl
@[simp] theorem State.writeWin_cfg (s : State) (ms : Millis) : (s.writeWin ms).cfg = s.cfg := rfl

@[simp] theorem State.writeTlast_hist (s : State) (t : Millis) : (s.writeTlast t).hist = s.hist := rfl
@[simp] theorem State.writeTlast_acc (s : State) (t : Millis) : (s.writeTlast t).acc = s.acc := rfl
@[simp] theorem State.writeTlast_dir (s : State) (t : Millis) : (s.writeTlast t).dir = s.dir := rfl
@[simp] theorem State.writeTlast_sens (s : State) (t : Millis) : (s.writeTlast t).sens = s.sens := rfl
@[simp] theorem State.writeTlast_live (s : State) (t : Millis) : (s.writeTlast t).live = s.live := rfl
@[simp] theorem State.writeTlast_vel (s : State) (t : Millis) : (s.writeTlast t).vel = s.vel := rfl
@[simp] theorem State.writeTlast_incf (s : State) (t : Millis) : (s.writeTlast t).incf = s.incf := rfl
@[simp] theorem State.writeTlast_decf (s : State) (t : Millis) : (s.writeTlast t).decf = s.decf := rfl
@[simp] theorem State.writeTlast_win (s : State) (t : Millis) : (s.writeTlast t).win = s.win := rfl
@[simp] theorem State.writeTlast_tlast (s : State) (t : Millis) : (s.writeTlast t).tlast = t := rfl
@[simp] theorem State.writeTlast_pins (s : State) (t : Millis) : (s.writeTlast t).pins = s.pins := rfl
@[simp] theorem State.writeTlast_inputs (s : State) (t : Millis) : (s.writeTlast t).inputs = s.inputs := rfl
@[simp] theorem State.writeTlast_rsp (s : State) (t : Millis) : (s.writeTlast t).rsp = s.rsp := rfl
@[simp] theorem State.writeTlast_outputs (s : State) (t : Millis) : (s.writeTlast t).outputs = s.outputs := rfl
@[simp] theorem State.writeTlast_draws (s : State) (t : Millis) : (s.writeTlast t).draws = s.draws := rfl
@[simp] theorem State.writeTlast_cfg (s : State) (t : Millis) : (s.writeTlast t).cfg = s.cfg := rfl

@[simp] theorem State.respond_hist (s : State) (v : Word64) : (s.respond v).hist = s.hist := rfl
@[simp] theorem State.respond_acc (s : State) (v : Word64) : (s.respond v).acc = s.acc := rfl
@[simp] theorem State.respond_dir (s : State) (v : Word64) : (s.respond v).dir = s.dir := rfl
@[simp] theorem State.respond_sens (s : State) (v : Word64) : (s.respond v).sens = s.sens := rfl
@[simp] theorem State.respond_live (s : State) (v : Word64) : (s.respond v).live = s.live := rfl
@[simp] theorem State.respond_vel (s : State) (v : Word64) : (s.respond v).vel = s.vel := rfl
@[simp] theorem State.respond_incf (s : State) (v : Word64) : (s.respond v).incf = s.incf := rfl
@[simp] theorem State.respond_decf (s : State) (v : Word64) : (s.respond v).decf = s.decf := rfl
@[simp] theorem State.respond_win (s : State) (v : Word64) : (s.respond v).win = s.win := rfl
@[simp] theorem State.respond_tlast (s : State) (v : Word64) : (s.respond v).tlast = s.tlast := rfl
@[simp] theorem State.respond_pins (s : State) (v : Word64) : (s.respond v).pins = s.pins := rfl
@[simp] theorem State.respond_inputs (s : State) (v : Word64) : (s.respond v).inputs = s.inputs := rfl
@[simp] theorem State.respond_rsp (s : State) (v : Word64) : (s.respond v).rsp = some v := rfl
@[simp] theorem State.respond_outputs (s : State) (v : Word64) : (s.respond v).outputs = s.outputs ++ [v] := rfl
@[simp] theorem State.respond_draws (s : State) (v : Word64) : (s.respond v).draws = s.draws := rfl
@[simp] theorem State.respond_cfg (s : State) (v : Word64) : (s.respond v).cfg = s.cfg := rfl

@[simp] theorem State.initDecoder_hist (s : State) : (s.initDecoder).hist = 0 := rfl
@[simp] theorem State.initDecoder_acc (s : State) : (s.initDecoder).acc = 0 := rfl
@[simp] theorem State.initDecoder_dir (s : State) : (s.initDecoder).dir = .none := rfl
@[simp] theorem State.initDecoder_sens (s : State) : (s.initDecoder).sens = .default := rfl
@[simp] theorem State.initDecoder_live (s : State) : (s.initDecoder).live = s.live := rfl
@[simp] theorem State.initDecoder_vel (s : State) : (s.initDecoder).vel = s.vel := rfl
@[simp] theorem State.initDecoder_incf (s : State) : (s.initDecoder).incf = s.incf := rfl
@[simp] theorem State.initDecoder_decf (s : State) : (s.initDecoder).decf = s.decf := rfl
@[simp] theorem State.initDecoder_win (s : State) : (s.initDecoder).win = s.win := rfl
@[simp] theorem State.initDecoder_tlast (s : State) : (s.initDecoder).tlast = s.tlast := rfl
@[simp] theorem State.initDecoder_pins (s : State) : (s.initDecoder).pins = s.pins := rfl
@[simp] theorem State.initDecoder_inputs (s : State) : (s.initDecoder).inputs = s.inputs := rfl
@[simp] theorem State.initDecoder_rsp (s : State) : (s.initDecoder).rsp = s.rsp := rfl
@[simp] theorem State.initDecoder_outputs (s : State) : (s.initDecoder).outputs = s.outputs := rfl
@[simp] theorem State.initDecoder_draws (s : State) : (s.initDecoder).draws = s.draws := rfl
@[simp] theorem State.initDecoder_cfg (s : State) : (s.initDecoder).cfg = s.cfg := rfl

@[simp] theorem State.present_hist (s : State) (p : Pins) (rest : List Input) : (s.present p rest).hist = s.hist := rfl
@[simp] theorem State.present_acc (s : State) (p : Pins) (rest : List Input) : (s.present p rest).acc = s.acc := rfl
@[simp] theorem State.present_dir (s : State) (p : Pins) (rest : List Input) : (s.present p rest).dir = s.dir := rfl
@[simp] theorem State.present_sens (s : State) (p : Pins) (rest : List Input) : (s.present p rest).sens = s.sens := rfl
@[simp] theorem State.present_live (s : State) (p : Pins) (rest : List Input) : (s.present p rest).live = s.live := rfl
@[simp] theorem State.present_vel (s : State) (p : Pins) (rest : List Input) : (s.present p rest).vel = s.vel := rfl
@[simp] theorem State.present_incf (s : State) (p : Pins) (rest : List Input) : (s.present p rest).incf = s.incf := rfl
@[simp] theorem State.present_decf (s : State) (p : Pins) (rest : List Input) : (s.present p rest).decf = s.decf := rfl
@[simp] theorem State.present_win (s : State) (p : Pins) (rest : List Input) : (s.present p rest).win = s.win := rfl
@[simp] theorem State.present_tlast (s : State) (p : Pins) (rest : List Input) : (s.present p rest).tlast = s.tlast := rfl
@[simp] theorem State.present_pins (s : State) (p : Pins) (rest : List Input) : (s.present p rest).pins = p := rfl
@[simp] theorem State.present_inputs (s : State) (p : Pins) (rest : List Input) : (s.present p rest).inputs = rest := rfl
@[simp] theorem State.present_rsp (s : State) (p : Pins) (rest : List Input) : (s.present p rest).rsp = none := rfl
@[simp] theorem State.present_outputs (s : State) (p : Pins) (rest : List Input) : (s.present p rest).outputs = s.outputs := rfl
@[simp] theorem State.present_draws (s : State) (p : Pins) (rest : List Input) : (s.present p rest).draws = s.draws := rfl
@[simp] theorem State.present_cfg (s : State) (p : Pins) (rest : List Input) : (s.present p rest).cfg = s.cfg := rfl

@[simp] theorem State.idle_hist (s : State) : (s.idle).hist = s.hist := rfl
@[simp] theorem State.idle_acc (s : State) : (s.idle).acc = s.acc := rfl
@[simp] theorem State.idle_dir (s : State) : (s.idle).dir = s.dir := rfl
@[simp] theorem State.idle_sens (s : State) : (s.idle).sens = s.sens := rfl
@[simp] theorem State.idle_live (s : State) : (s.idle).live = s.live := rfl
@[simp] theorem State.idle_vel (s : State) : (s.idle).vel = s.vel := rfl
@[simp] theorem State.idle_incf (s : State) : (s.idle).incf = s.incf := rfl
@[simp] theorem State.idle_decf (s : State) : (s.idle).decf = s.decf := rfl
@[simp] theorem State.idle_win (s : State) : (s.idle).win = s.win := rfl
@[simp] theorem State.idle_tlast (s : State) : (s.idle).tlast = s.tlast := rfl
@[simp] theorem State.idle_pins (s : State) : (s.idle).pins = s.pins := rfl
@[simp] theorem State.idle_inputs (s : State) : (s.idle).inputs = s.inputs := rfl
@[simp] theorem State.idle_rsp (s : State) : (s.idle).rsp = none := rfl
@[simp] theorem State.idle_outputs (s : State) : (s.idle).outputs = s.outputs := rfl
@[simp] theorem State.idle_draws (s : State) : (s.idle).draws = s.draws := rfl
@[simp] theorem State.idle_cfg (s : State) : (s.idle).cfg = s.cfg := rfl

@[simp] theorem State.initVelocity_hist (s : State) : s.initVelocity.hist = s.hist := by
  unfold State.initVelocity; split <;> rfl
@[simp] theorem State.initVelocity_acc (s : State) : s.initVelocity.acc = s.acc := by
  unfold State.initVelocity; split <;> rfl
@[simp] theorem State.initVelocity_dir (s : State) : s.initVelocity.dir = s.dir := by
  unfold State.initVelocity; split <;> rfl
@[simp] theorem State.initVelocity_sens (s : State) : s.initVelocity.sens = s.sens := by
  unfold State.initVelocity; split <;> rfl
@[simp] theorem State.initVelocity_live (s : State) : s.initVelocity.live = s.live := by
  unfold State.initVelocity; split <;> rfl
@[simp] theorem State.initVelocity_vel (s : State) :
    s.initVelocity.vel = if s.cfg.hasVelocity then 0x00000000 else s.vel := by
  unfold State.initVelocity; split <;> rfl
@[simp] theorem State.initVelocity_incf (s : State) :
    s.initVelocity.incf = if s.cfg.hasVelocity then 0x3E4CCCCD else s.incf := by
  unfold State.initVelocity; split <;> rfl
@[simp] theorem State.initVelocity_decf (s : State) :
    s.initVelocity.decf = if s.cfg.hasVelocity then 0x3C23D70A else s.decf := by
  unfold State.initVelocity; split <;> rfl
@[simp] theorem State.initVelocity_win (s : State) :
    s.initVelocity.win = if s.cfg.hasVelocity then 25 else s.win := by
  unfold State.initVelocity; split <;> rfl
@[simp] theorem State.initVelocity_tlast (s : State) :
    s.initVelocity.tlast = if s.cfg.hasVelocity then 0 else s.tlast := by
  unfold State.initVelocity; split <;> rfl
@[simp] theorem State.initVelocity_pins (s : State) : s.initVelocity.pins = s.pins := by
  unfold State.initVelocity; split <;> rfl
@[simp] theorem State.initVelocity_inputs (s : State) : s.initVelocity.inputs = s.inputs := by
  unfold State.initVelocity; split <;> rfl
@[simp] theorem State.initVelocity_rsp (s : State) : s.initVelocity.rsp = s.rsp := by
  unfold State.initVelocity; split <;> rfl
@[simp] theorem State.initVelocity_outputs (s : State) : s.initVelocity.outputs = s.outputs := by
  unfold State.initVelocity; split <;> rfl
@[simp] theorem State.initVelocity_draws (s : State) : s.initVelocity.draws = s.draws := by
  unfold State.initVelocity; split <;> rfl
@[simp] theorem State.initVelocity_cfg (s : State) : s.initVelocity.cfg = s.cfg := by
  unfold State.initVelocity; split <;> rfl

@[simp] theorem State.hardwareReset_hist (s : State) (rest : List Input) :
    (s.hardwareReset rest).hist = 0 := by
  simp [State.hardwareReset]
@[simp] theorem State.hardwareReset_acc (s : State) (rest : List Input) :
    (s.hardwareReset rest).acc = 0 := by
  simp [State.hardwareReset]
@[simp] theorem State.hardwareReset_dir (s : State) (rest : List Input) :
    (s.hardwareReset rest).dir = .none := by
  simp [State.hardwareReset]
@[simp] theorem State.hardwareReset_sens (s : State) (rest : List Input) :
    (s.hardwareReset rest).sens = .default := by
  simp [State.hardwareReset]
@[simp] theorem State.hardwareReset_live (s : State) (rest : List Input) :
    (s.hardwareReset rest).live = false := by
  simp [State.hardwareReset]
@[simp] theorem State.hardwareReset_vel (s : State) (rest : List Input) :
    (s.hardwareReset rest).vel = if s.cfg.hasVelocity then 0x00000000 else s.vel := by
  cases h : s.cfg.hasVelocity <;> simp [State.hardwareReset, h]
@[simp] theorem State.hardwareReset_incf (s : State) (rest : List Input) :
    (s.hardwareReset rest).incf = if s.cfg.hasVelocity then 0x3E4CCCCD else s.incf := by
  cases h : s.cfg.hasVelocity <;> simp [State.hardwareReset, h]
@[simp] theorem State.hardwareReset_decf (s : State) (rest : List Input) :
    (s.hardwareReset rest).decf = if s.cfg.hasVelocity then 0x3C23D70A else s.decf := by
  cases h : s.cfg.hasVelocity <;> simp [State.hardwareReset, h]
@[simp] theorem State.hardwareReset_win (s : State) (rest : List Input) :
    (s.hardwareReset rest).win = if s.cfg.hasVelocity then 25 else s.win := by
  cases h : s.cfg.hasVelocity <;> simp [State.hardwareReset, h]
@[simp] theorem State.hardwareReset_tlast (s : State) (rest : List Input) :
    (s.hardwareReset rest).tlast = if s.cfg.hasVelocity then 0 else s.tlast := by
  cases h : s.cfg.hasVelocity <;> simp [State.hardwareReset, h]
@[simp] theorem State.hardwareReset_pins (s : State) (rest : List Input) :
    (s.hardwareReset rest).pins = s.pins := by
  simp [State.hardwareReset]
@[simp] theorem State.hardwareReset_inputs (s : State) (rest : List Input) :
    (s.hardwareReset rest).inputs = rest := by
  simp [State.hardwareReset]
@[simp] theorem State.hardwareReset_rsp (s : State) (rest : List Input) :
    (s.hardwareReset rest).rsp = none := by
  simp [State.hardwareReset]
@[simp] theorem State.hardwareReset_outputs (s : State) (rest : List Input) :
    (s.hardwareReset rest).outputs = s.outputs := by
  simp [State.hardwareReset]
@[simp] theorem State.hardwareReset_draws (s : State) (rest : List Input) :
    (s.hardwareReset rest).draws = s.draws := by
  simp [State.hardwareReset]
@[simp] theorem State.hardwareReset_cfg (s : State) (rest : List Input) :
    (s.hardwareReset rest).cfg = s.cfg := by
  simp [State.hardwareReset]

end Sys2Proof.Machine
end

