-- ==== Sys2Proof/Laws/Ops.lean ====
section
/-! SUPPORT. Everything a shared operation can do, said once: the guards of the acceptance check, sequencing, the decoder
step (spec/40_decoder.md R103), the velocity step (spec/41_velocity.md R134), and the step of the machine. -/

namespace Sys2Proof.Machine

variable {s t u : State} {o k : Host.Outcome State Fault Refusal} {f : State → Host.Outcome State Fault Refusal}
  {r : Fault} {q : Refusal}

theorem whenVelocity_of_present (h : s.cfg.hasVelocity = true) : whenVelocity s k = k := by simp [whenVelocity, h]

theorem whenVelocity_of_absent (h : s.cfg.hasVelocity = false) : whenVelocity s k = .refused .noVelocityUnit := by
  simp [whenVelocity, h]

theorem whenLive_of_live (h : s.live = true) : whenLive s k = k := by simp [whenLive, h]

theorem whenLive_of_not_live (h : s.live = false) : whenLive s k = .refused .notLive := by simp [whenLive, h]

theorem whenNotLive_of_live (h : s.live = true) : whenNotLive s k = .refused .alreadyLive := by simp [whenNotLive, h]

theorem whenNotLive_of_not_live (h : s.live = false) : whenNotLive s k = k := by simp [whenNotLive, h]

theorem whenVelocity_next_iff : whenVelocity s k = .next t ↔ s.cfg.hasVelocity = true ∧ k = .next t := by
  unfold whenVelocity; split <;> simp_all

theorem whenLive_next_iff : whenLive s k = .next t ↔ s.live = true ∧ k = .next t := by
  unfold whenLive; split <;> simp_all

theorem whenNotLive_next_iff : whenNotLive s k = .next t ↔ s.live = false ∧ k = .next t := by
  unfold whenNotLive; split <;> simp_all

theorem whenVelocity_fault_iff : whenVelocity s k = .fault r ↔ s.cfg.hasVelocity = true ∧ k = .fault r := by
  unfold whenVelocity; split <;> simp_all

theorem whenLive_fault_iff : whenLive s k = .fault r ↔ s.live = true ∧ k = .fault r := by
  unfold whenLive; split <;> simp_all

theorem whenNotLive_fault_iff : whenNotLive s k = .fault r ↔ s.live = false ∧ k = .fault r := by
  unfold whenNotLive; split <;> simp_all

@[simp] theorem andThen_next : andThen (.next s) f = f s := rfl

@[simp] theorem andThen_fault : andThen (.fault r) f = .fault r := rfl

@[simp] theorem andThen_refused : andThen (.refused q) f = .refused q := rfl

theorem andThen_next_iff : andThen o f = .next u ↔ ∃ t, o = .next t ∧ f t = .next u := by
  cases o <;> simp [andThen]

theorem andThen_fault_iff : andThen o f = .fault r ↔ o = .fault r ∨ ∃ t, o = .next t ∧ f t = .fault r := by
  cases o <;> simp [andThen]

/-! ### The decoder step -/

@[simp] theorem commitUpdate_sens (s : State) (h a : BitVec 8) : (commitUpdate s h a).sens = s.sens := rfl
@[simp] theorem commitUpdate_live (s : State) (h a : BitVec 8) : (commitUpdate s h a).live = s.live := rfl
@[simp] theorem commitUpdate_vel (s : State) (h a : BitVec 8) : (commitUpdate s h a).vel = s.vel := rfl
@[simp] theorem commitUpdate_incf (s : State) (h a : BitVec 8) : (commitUpdate s h a).incf = s.incf := rfl
@[simp] theorem commitUpdate_decf (s : State) (h a : BitVec 8) : (commitUpdate s h a).decf = s.decf := rfl
@[simp] theorem commitUpdate_win (s : State) (h a : BitVec 8) : (commitUpdate s h a).win = s.win := rfl
@[simp] theorem commitUpdate_tlast (s : State) (h a : BitVec 8) : (commitUpdate s h a).tlast = s.tlast := rfl
@[simp] theorem commitUpdate_pins (s : State) (h a : BitVec 8) : (commitUpdate s h a).pins = s.pins := rfl
@[simp] theorem commitUpdate_inputs (s : State) (h a : BitVec 8) : (commitUpdate s h a).inputs = s.inputs := rfl
@[simp] theorem commitUpdate_rsp (s : State) (h a : BitVec 8) : (commitUpdate s h a).rsp = s.rsp := rfl
@[simp] theorem commitUpdate_outputs (s : State) (h a : BitVec 8) : (commitUpdate s h a).outputs = s.outputs := rfl
@[simp] theorem commitUpdate_draws (s : State) (h a : BitVec 8) : (commitUpdate s h a).draws = s.draws := rfl
@[simp] theorem commitUpdate_cfg (s : State) (h a : BitVec 8) : (commitUpdate s h a).cfg = s.cfg := rfl

@[simp] theorem commitUpdate_hist (s : State) (h a : BitVec 8) : (commitUpdate s h a).hist = h := rfl

/-- After an event the accumulator is cleared (R105). -/
theorem commitUpdate_event {s : State} {h a : BitVec 8} (hd : (commitUpdate s h a).dir ≠ .none) :
    (commitUpdate s h a).acc = 0 := by
  by_cases he : isEvent s.sens a.toInt = true
  · simp [commitUpdate, he]
  · exact absurd (by simp [commitUpdate, updateDirection, he]) hd

/-- The accumulator's range (R22). -/
theorem acc_range (a : BitVec 8) : -128 ≤ a.toInt ∧ a.toInt ≤ 127 := by
  have h1 := BitVec.le_toInt a
  have h2 := BitVec.toInt_lt (x := a)
  omega

/-- Inside the range the wrap is the identity (R107). -/
theorem toInt_wrap8 {i : Int} (h1 : -128 ≤ i) (h2 : i ≤ 127) : (wrap8 i).toInt = i := by
  simp only [wrap8, BitVec.toInt_ofInt, Int.bmod_def]
  split <;> omega

/-- The history an UPDATE leaves (R104 (3)). -/
def newHistory (s : State) : BitVec 8 := shiftHistory s.hist (pinSample s.pins)

/-- The accumulator an UPDATE computes, before the wrap (R103 step 4). -/
def newSum (s : State) : Int := accumulate s.acc (newHistory s)

/-- The decoder step faults only as R174's AccOverflow, under `cfg.strict`, and commits the update otherwise. -/
theorem decoderStep_cases (s : State) :
    (s.cfg.strict = true ∧ accOverflows (newSum s) = true ∧ decoderStep s = .fault .accOverflow) ∨
      ((s.cfg.strict = false ∨ accOverflows (newSum s) = false) ∧
        decoderStep s = .next (commitUpdate s (newHistory s) (wrap8 (newSum s)))) := by
  unfold decoderStep newSum newHistory
  cases hs : s.cfg.strict <;>
    cases ho : accOverflows (accumulate s.acc (shiftHistory s.hist (pinSample s.pins))) <;> simp [ho]

theorem decoderStep_next (h : decoderStep s = .next t) : t = commitUpdate s (newHistory s) (wrap8 (newSum s)) := by
  rcases decoderStep_cases s with ⟨_, _, h'⟩ | ⟨_, h'⟩ <;> rw [h'] at h
  · cases h
  · cases h; rfl

/-- The decoder step never refuses. -/
theorem decoderStep_ne_refused : decoderStep s ≠ .refused q := by
  rcases decoderStep_cases s with ⟨_, _, h⟩ | ⟨_, h⟩ <;> simp [h]

/-- The velocity step: a quiet call, R174's TimeBackwards, an increment, or an event without one. -/
theorem velocityStep_cases (n : Millis) (s : State) :
    (s.dir = .none ∧ velocityStep n s = .next (s.writeTlast n)) ∨
      (s.dir ≠ .none ∧ s.cfg.strict = true ∧ n.toNat < s.tlast.toNat ∧ velocityStep n s = .fault .timeBackwards) ∨
      (s.dir ≠ .none ∧ (s.cfg.strict = false ∨ s.tlast.toNat ≤ n.toNat) ∧ incrementDue n s = true ∧
        velocityStep n s = .next (s.writeVel (incrementedVel s))) ∨
      (s.dir ≠ .none ∧ (s.cfg.strict = false ∨ s.tlast.toNat ≤ n.toNat) ∧ incrementDue n s = false ∧
        velocityStep n s = .next s) := by
  unfold velocityStep
  by_cases hd : s.dir = .none
  · simp [hd]
  · by_cases hb : n.toNat < s.tlast.toNat
    · cases hs : s.cfg.strict <;> cases hi : incrementDue n s <;> simp [hd, hb]
    · cases hi : incrementDue n s <;> simp [hd, hb, Nat.le_of_not_lt hb]

/-- The velocity step never refuses. -/
theorem velocityStep_ne_refused (n : Millis) : velocityStep n s ≠ .refused q := by
  rcases velocityStep_cases n s with ⟨_, h⟩ | ⟨_, _, _, h⟩ | ⟨_, _, _, h⟩ | ⟨_, _, _, h⟩ <;> simp [h]

/-- A command that needs LIVE answers a next state exactly when its inner effect does. -/
theorem exec_next_live {i : Instr} (h : exec i s = .next t) (hi : i ≠ .construct) : s.live = true := by
  cases i <;> simp only [exec, execConstruct, execUpdate, execSetsens, execGetdir, execBorrowpins, execRelease,
    execBorrowinner, execTupdate, execDecay, execSetinc, execSetdec, execSetwin, execGetvel] at h
  case construct => exact absurd rfl hi
  case setsens mag =>
    split at h
    · exact (whenLive_next_iff.1 h).1
    · cases h
  case update => exact (whenLive_next_iff.1 h).1
  case getdir => exact (whenLive_next_iff.1 h).1
  case borrowpins => exact (whenLive_next_iff.1 h).1
  case release => exact (whenLive_next_iff.1 h).1
  all_goals exact (whenLive_next_iff.1 (whenVelocity_next_iff.1 h).2).1

/-- The step on each kind of input. -/
theorem step_nil (h : s.inputs = []) : step s = .next s.idle := by simp [step, h]

theorem step_reset {rest : List Input} (h : s.inputs = .reset :: rest) : step s = .next (s.hardwareReset rest) := by
  simp [step, h]

theorem step_command_error {w : CommandWord} {p : Pins} {rest : List Input} {e : DecodeError}
    (h : s.inputs = .command w p :: rest) (hd : decode w = .error e) :
    step s = .refused (rejection s.cfg w e) := by
  simp [step, h, hd]

/-- What a step that answers a next state was: a wait, a reset, or a command carried out. -/
theorem step_next_cases (h : step s = .next t) :
    (s.inputs = [] ∧ t = s.idle) ∨ (∃ rest, s.inputs = .reset :: rest ∧ t = s.hardwareReset rest) ∨
      ∃ w p rest i, s.inputs = .command w p :: rest ∧ decode w = .ok i ∧ exec i (s.present p rest) = .next t := by
  unfold step at h
  split at h
  · rename_i hi; cases h; exact .inl ⟨hi, rfl⟩
  · rename_i rest hi; cases h; exact .inr (.inl ⟨rest, hi, rfl⟩)
  · rename_i w p rest hi
    split at h
    · rename_i i hd; exact .inr (.inr ⟨w, p, rest, i, hi, hd, h⟩)
    · cases h

end Sys2Proof.Machine
end

