-- ==== Sys2Proof/Laws/PerInstr.lean ====
section
/-! SUPPORT. The family OpcodePlaced: the encoder puts each command's opcode in `CW[67:64]` (spec/30_encoding.md R70,
R74), one lemma per constructor. -/

namespace Sys2Proof.Laws.OpcodePlaced

/-- `CW[67:64]` of the encoding is the command's opcode. -/
def Statement (i : Instr) : Prop := opcodeOf (encode i) = i.opcode

theorem construct : Statement .construct := opcodeOf_append _ _
theorem update : Statement .update := opcodeOf_append _ _
theorem setsens (mag : BitVec 3) : Statement (.setsens mag) := opcodeOf_append _ _
theorem getdir : Statement .getdir := opcodeOf_append _ _
theorem borrowpins : Statement .borrowpins := opcodeOf_append _ _
theorem release : Statement .release := opcodeOf_append _ _
theorem borrowinner : Statement .borrowinner := opcodeOf_append _ _
theorem tupdate (t : Millis) : Statement (.tupdate t) := opcodeOf_append _ _
theorem decay : Statement .decay := opcodeOf_append _ _
theorem setinc (f : F32) : Statement (.setinc f) := opcodeOf_append _ _
theorem setdec (f : F32) : Statement (.setdec f) := opcodeOf_append _ _
theorem setwin (ms : Millis) : Statement (.setwin ms) := opcodeOf_append _ _
theorem getvel : Statement .getvel := opcodeOf_append _ _

end Sys2Proof.Laws.OpcodePlaced
end

