-- ==== Sys2Proof/Laws/Rounding.lean ====
section
/-! SUPPORT. Further facts about the binary32 arithmetic of spec/41_velocity.md R131: negation, and that rounding gives the
nearest pattern, ties to even. -/

namespace Sys2Proof.Machine

/-- Only the zeros have magnitude 0. -/
theorem fMag_eq_zero (x : F32) : fMag x = 0 ↔ x.toNat % 2^31 = 0 := by
  rw [toNat_mod_eq_fields]
  unfold fMag; split
  · rename_i h; rw [h]; omega
  · have : 0 < 2 ^ (fExp x - 1) := by positivity
    constructor
    · intro h; rcases Nat.mul_eq_zero.1 h with h | h <;> omega
    · intro h; omega

@[simp] theorem fExp_fneg (x : F32) : fExp (fneg x) = fExp x := by
  unfold fExp fneg
  rw [BitVec.extractLsb'_xor, show (0x80000000 : F32).extractLsb' 23 8 = 0 by decide]
  exact congrArg _ BitVec.xor_zero
@[simp] theorem fFrac_fneg (x : F32) : fFrac (fneg x) = fFrac x := by
  unfold fFrac fneg
  rw [BitVec.extractLsb'_xor, show (0x80000000 : F32).extractLsb' 0 23 = 0 by decide]
  exact congrArg _ BitVec.xor_zero
@[simp] theorem fSign_fneg (x : F32) : fSign (fneg x) = !fSign x := by
  unfold fSign fneg
  rw [BitVec.msb_xor, show (0x80000000 : F32).msb = true by decide]
  simp
@[simp] theorem isNaN_fneg (x : F32) : isNaN (fneg x) = isNaN x := by simp [isNaN, fExp_fneg, fFrac_fneg]
@[simp] theorem isInf_fneg (x : F32) : isInf (fneg x) = isInf x := by simp [isInf, fExp_fneg, fFrac_fneg]
@[simp] theorem fMag_fneg (x : F32) : fMag (fneg x) = fMag x := by simp [fMag, fExp_fneg, fFrac_fneg]
@[simp] theorem fVal_fneg (x : F32) : fVal (fneg x) = -fVal x := by
  unfold fVal; rw [fSign_fneg, fMag_fneg]; cases fSign x <;> simp

theorem msb_eq_decide_le (x : F32) : x.msb = decide (2^31 ≤ x.toNat) := BitVec.msb_eq_decide x

/-- Patterns up to plus infinity have sign 0. -/
theorem fSign_of_le (x : F32) (h : x.toNat ≤ 0x7F800000) : fSign x = false := by
  unfold fSign; rw [msb_eq_decide_le]; simp; omega

theorem toNat_pattern (n : Nat) (h : n ≤ 0x7F800000) : (BitVec.ofNat 32 n).toNat = n := by simp; omega

/-- R131: no finite pattern is nearer to `n` than the rounded one, and one equally near means an even result. -/
theorem roundMag_nearest (n : Nat) : ∀ z : Nat, z ≤ 0x7F800000 → roundMag n < 0x7F800000 → z < 0x7F800000 →
   let R := fMag (BitVec.ofNat 32 (roundMag n)); let C := fMag (BitVec.ofNat 32 z)
   ((R:Int) - n).natAbs ≤ ((C:Int) - n).natAbs ∧ (((C:Int) - n).natAbs = ((R:Int) - n).natAbs → C ≠ R → roundMag n % 2 = 0) := by
  intro z hz hr hz' R C
  have hRdef : R = fMag (BitVec.ofNat 32 (roundMag n)) := rfl
  have fm : ∀ k q : Nat, 2^23 ≤ q → q ≤ 2^24 → k * 2^23 + q < 0x7F800000 → fMag (BitVec.ofNat 32 (k * 2^23 + q)) = q * 2^k := by
    intro k q h1 h2 h3
    have e := toNat_eq_fields (BitVec.ofNat 32 (k * 2^23 + q))
    rw [fSign_of_le _ (by rw [toNat_pattern _ (by omega)]; omega), toNat_pattern _ (by omega)] at e
    simp only [Bool.false_eq_true, if_false, Nat.zero_add] at e
    have hf := fFrac_lt (BitVec.ofNat 32 (k * 2^23 + q))
    unfold fMag
    by_cases h : q = 2^24
    · have : fExp (BitVec.ofNat 32 (k * 2^23 + q)) = k + 2 ∧ fFrac (BitVec.ofNat 32 (k * 2^23 + q)) = 0 := by omega
      rw [this.1, this.2, if_neg (by omega), h]
      simp [pow_succ]; ring
    · have : fExp (BitVec.ofNat 32 (k * 2^23 + q)) = k + 1 ∧ fFrac (BitVec.ofNat 32 (k * 2^23 + q)) = q - 2^23 := by omega
      rw [this.1, this.2, if_neg (by omega), show 2^23 + (q - 2^23) = q by omega]; simp
  by_cases hs : n < 2^24
  · have e := roundMag_of_lt n hs
    have : R = n := by
      simp only [R, e]
      by_cases h2 : n < 2^23
      · have e := toNat_eq_fields (BitVec.ofNat 32 n)
        rw [fSign_of_le _ (by rw [toNat_pattern _ (by omega)]; omega), toNat_pattern _ (by omega)] at e
        simp only [Bool.false_eq_true, if_false, Nat.zero_add] at e
        have hf := fFrac_lt (BitVec.ofNat 32 n)
        unfold fMag
        rw [if_pos (by omega)]; omega
      · have := fm 0 n (by omega) (by omega) (by omega)
        simpa using this
    rw [this]; simp; omega
  · have hs' : 2^24 ≤ n := by omega
    obtain ⟨q1, q2⟩ := significand_bounds n hs'
    have hdm := Nat.div_add_mod n (2 ^ (n.log2 - 23))
    have hml := Nat.mod_lt n (show 0 < 2 ^ (n.log2 - 23) by positivity)
    have hrr : roundMag n = (n.log2 - 23) * 2 ^ 23 + n / 2 ^ (n.log2 - 23) + (if 2 ^ (n.log2 - 23) < 2 * (n % 2 ^ (n.log2 - 23)) ∨
        (2 * (n % 2 ^ (n.log2 - 23)) = 2 ^ (n.log2 - 23) ∧ n / 2 ^ (n.log2 - 23) % 2 = 1) then 1 else 0) := by
      have : roundMag n = min ((n.log2 - 23) * 2 ^ 23 + n / 2 ^ (n.log2 - 23) + (if 2 ^ (n.log2 - 23) < 2 * (n % 2 ^ (n.log2 - 23)) ∨
        (2 * (n % 2 ^ (n.log2 - 23)) = 2 ^ (n.log2 - 23) ∧ n / 2 ^ (n.log2 - 23) % 2 = 1) then 1 else 0)) 0x7F800000 := rfl
      omega
    generalize hk : n.log2 - 23 = k at *
    generalize hq : n / 2^k = q at *
    generalize hrm : n % 2^k = r at *
    generalize hP : 2^k = P at *
    have hlow : fMag (BitVec.ofNat 32 (k * 2^23 + q)) = q * P := by rw [← hP]; exact fm k q q1 (by omega) (by omega)
    -- C vs neighbours
    have hmono : ∀ a b : Nat, a < 0x7F800000 → b ≤ 0x7F800000 → (a < b ↔ fMag (BitVec.ofNat 32 a) < fMag (BitVec.ofNat 32 b)) := by
      intro a b ha hb
      have h1 := toNat_pattern a (by omega)
      have h2 := toNat_pattern b hb
      have := fMag_lt_iff (BitVec.ofNat 32 a) (BitVec.ofNat 32 b) ((isNaN_eq_false_iff _).2 (by omega)) ((isNaN_eq_false_iff _).2 (by omega))
      rw [h1, h2] at this
      rw [this]; omega
    have hup : fMag (BitVec.ofNat 32 (k * 2^23 + (q+1))) = (q+1) * P := by
      by_cases hc : k * 2^23 + (q+1) < 0x7F800000
      · rw [← hP]; exact fm k (q+1) (by omega) (by omega) hc
      · have hk' : k = 253 ∧ q + 1 = 2^24 := by omega
        rw [hk'.1, hk'.2, ← hP, hk'.1]; decide
    have hC : C ≤ q * P ∨ (q+1) * P ≤ C := by
      rcases Nat.lt_or_ge z (k * 2^23 + (q+1)) with h | h
      · left
        have := (hmono (k * 2^23 + q) z (by omega) (by omega)).not.1 (by omega)
        simp only [C]; omega
      · right
        have := (hmono z (k * 2^23 + (q+1)) hz' (by omega)).not.1 (by omega)
        simp only [C]; omega
    have hqP : (q+1) * P = q * P + P := by ring
    have hnn : n = q * P + r := by rw [← hdm]; ring
    have hpar : (k * 2 ^ 23 + q) % 2 = q % 2 := by omega
    rw [hqP] at hC hup
    generalize hA : q * P = A at *
    clear_value C R
    by_cases hu : P < 2 * r ∨ 2 * r = P ∧ q % 2 = 1
    · rw [if_pos hu] at hrr
      have hR : R = A + P := by rw [hRdef, hrr, Nat.add_assoc]; exact hup
      clear hup hlow hmono fm hRdef hdm hA hqP
      rw [hR]
      constructor
      · omega
      · intro h1 h2; omega
    · rw [if_neg hu] at hrr
      have hR : R = A := by rw [hRdef, hrr, Nat.add_zero]; exact hlow
      clear hup hlow hmono fm hRdef hdm hA hqP
      rw [hR]
      constructor
      · omega
      · intro h1 h2; omega

/-- The overflow threshold: half a unit in the last place above the largest finite number. -/
theorem roundMag_eq_inf_iff (n : Nat) : roundMag n = 0x7F800000 ↔ (2 ^ 25 - 1) * 2 ^ 252 ≤ n := by
  have a : roundMag ((2 ^ 25 - 1) * 2 ^ 252) = 0x7F800000 := by decide +kernel
  have b : roundMag ((2 ^ 25 - 1) * 2 ^ 252 - 1) = 0x7F7FFFFF := by decide +kernel
  constructor
  · intro h; by_contra hc
    have := roundMag_mono (n := n) (m := (2 ^ 25 - 1) * 2 ^ 252 - 1) (by omega)
    omega
  · intro h
    have := roundMag_mono h
    have := roundMag_le_inf n
    omega

/-- Rounding keeps the sign. -/
theorem fVal_roundUnits (i : Int) : fVal (roundUnits i) = if i < 0 then -(fMag (BitVec.ofNat 32 (roundMag i.natAbs)) : Int) else (fMag (BitVec.ofNat 32 (roundMag i.natAbs)) : Int) := by
  have hl := roundMag_le_inf i.natAbs
  have h := toNat_roundUnits i
  by_cases hi : i < 0
  · rw [if_pos hi] at *
    have hs : fSign (roundUnits i) = true := by unfold fSign; rw [msb_eq_decide_le]; simp; omega
    unfold fVal; rw [hs]
    have : roundUnits i = fneg (BitVec.ofNat 32 (roundMag i.natAbs)) := by
      have e1 := toNat_eq_fields (fneg (BitVec.ofNat 32 (roundMag i.natAbs)))
      have e2 := toNat_eq_fields (BitVec.ofNat 32 (roundMag i.natAbs))
      rw [fSign_fneg, fExp_fneg, fFrac_fneg] at e1
      rw [fSign_of_le _ (by rw [toNat_pattern _ hl]; exact hl)] at e1 e2
      rw [toNat_pattern _ hl] at e2
      apply BitVec.eq_of_toNat_eq
      simp only [Bool.false_eq_true, if_false, Bool.not_false, if_true] at e1 e2
      omega
    rw [this, fMag_fneg]; simp
  · rw [if_neg hi] at *
    have : roundUnits i = BitVec.ofNat 32 (roundMag i.natAbs) := by unfold roundUnits; rw [if_neg hi]; simp
    rw [this]; unfold fVal; rw [fSign_of_le _ (by rw [toNat_pattern _ hl]; exact hl)]; simp

/-- An infinite sum has the sign of the exact one. -/
theorem roundUnits_of_isInf {i : Int} (h : isInf (roundUnits i) = true) :
    roundUnits i = if 0 < i then 0x7F800000 else 0xFF800000 := by
  have hn := toNat_roundUnits i
  have hl := roundMag_le_inf i.natAbs
  rw [isInf_eq_true_iff, hn] at h
  have h0 : i ≠ 0 := by
    rintro rfl
    have : roundMag 0 = 0 := roundMag_of_lt 0 (by decide)
    simp [this] at h
  refine BitVec.eq_of_toNat_eq ?_
  rw [hn]
  by_cases hi : i < 0
  · rw [if_pos hi] at h ⊢
    rw [if_neg (by omega)]; show _ = 0xFF800000; omega
  · rw [if_neg hi] at h ⊢
    rw [if_pos (by omega)]; show _ = 0x7F800000; omega

/-- Every NaN pattern is the result of some draw (log entry 6). -/
theorem asNaN_of_isNaN {n : F32} (h : isNaN n = true) : asNaN n = n := by
  simp only [isNaN, Bool.and_eq_true, beq_iff_eq, bne_iff_ne] at h
  have he : n.extractLsb' 23 8 = 255#8 := BitVec.eq_of_toNat_eq (by simpa [fExp] using h.1)
  rw [asNaN, if_neg h.2]
  refine BitVec.eq_of_getLsbD_eq fun j hj => ?_
  have hb : ∀ k, k < 8 → n.getLsbD (23 + k) = true := by
    intro k hk
    have := congrArg (·.getLsbD k) he
    simp only [BitVec.getLsbD_extractLsb', hk, decide_true, Bool.true_and] at this
    rw [this]; clear this; revert k; decide
  rw [BitVec.getLsbD_or]
  by_cases hj' : 23 ≤ j ∧ j < 31
  · rw [show j = 23 + (j - 23) by omega, hb (j - 23) (by omega)]; rfl
  · have : (0x7F800000 : F32).getLsbD j = false := by revert hj'; revert j; decide
    rw [this, Bool.or_false]

end Sys2Proof.Machine
end

