-- ==== Sys2Proof/Laws/Update.lean ====
section
/-! SUPPORT. An UPDATE in the closed form of Safety.lean: what the operations of Machine/Decoder.lean compute is the sum,
the history and the threshold test of spec/40_decoder.md R103 to R106. -/

namespace Sys2Proof.Machine

theorem newHistory_eq (s : State) : newHistory s = historyNow s := rfl

/-- R53, R55: the table value of the transition is its closed form. -/
theorem newSum_eq (s : State) : newSum s = sumNow s := by
  have h : ∀ (h : BitVec 8) (c : Sample), tblRead ((h.extractLsb' 0 6 ++ c).extractLsb' 0 4) = stepValue (h.extractLsb' 0 2) c := by decide +kernel
  unfold newSum accumulate newHistory shiftHistory sumNow previousSample
  rw [h]; rfl

theorem isEvent_iff (m : Sensitivity) (i : Int) : isEvent m i = true ↔ i.natAbs = threshold m := by
  cases m <;> simp [isEvent, threshold, Sensitivity.magnitude]

theorem stepValue_cases (p c : Sample) : stepValue p c = -1 ∨ stepValue p c = 0 ∨ stepValue p c = 1 := by
  revert p c; decide

theorem threshold_bounds (m : Sensitivity) : 2 ≤ threshold m ∧ threshold m ≤ 4 := by cases m <;> decide

/-- R103 steps 5 and 6 inside the accumulator's range. -/
theorem commitUpdate_in_range (s : State) (h : -128 ≤ sumNow s ∧ sumNow s ≤ 127) :
    commitUpdate s (historyNow s) (wrap8 (sumNow s)) =
      if (sumNow s).natAbs = threshold s.sens then
        { s with hist := historyNow s, acc := 0, dir := if 0 < sumNow s then .clockwise else .anticlockwise }
      else { s with hist := historyNow s, acc := BitVec.ofInt 8 (sumNow s), dir := .none } := by
  have hw := toInt_wrap8 h.1 h.2
  unfold commitUpdate updateDirection eventDirection
  rw [hw]
  by_cases he : (sumNow s).natAbs = threshold s.sens
  · rw [if_pos he]; simp [(isEvent_iff _ _).2 he]; rfl
  · have hn : isEvent s.sens (sumNow s) = false := by
      rw [Bool.eq_false_iff]; intro hc; exact he ((isEvent_iff _ _).1 hc)
    rw [if_neg he]; simp [hn]; rfl

/-- The decoder step inside the accumulator's range, in both configurations. -/
theorem decoderStep_in_range (s : State) (h : -128 ≤ sumNow s ∧ sumNow s ≤ 127) :
    decoderStep s = .next (commitUpdate s (historyNow s) (wrap8 (sumNow s))) := by
  rcases decoderStep_cases s with ⟨_, h2, _⟩ | ⟨_, h2⟩
  · rw [newSum_eq] at h2; simp [accOverflows] at h2; omega
  · rw [h2, newSum_eq, newHistory_eq]

/-- The command the contract looks at is the one the step runs. -/
theorem nextCommand_of_decode {s : State} {w : CommandWord} {p : Pins} {rest : List Input} {i : Instr}
    (h : s.inputs = .command w p :: rest) (hd : decode w = .ok i) : nextCommand s = some i := by
  simp [nextCommand, h, hd, Except.toOption]

end Sys2Proof.Machine
end

