-- ==== Sys2Proof/Tests/Slice0.lean ====
section
/-! SUPPORT. Tests against the spec's own vectors (spec/95_test_vectors.md), each of one command or word, and one witness
for each clause of the statements in Certificates/Slice0/Obligations.lean that has hypotheses. -/

namespace Sys2Proof.Tests

open Sys2Proof.Machine

/-! ### Small states -/

/-- "State after CONSTRUCT" of the spec's vectors (R40). -/
def constructed : State :=
  { State.reset with live := true }

/-- Pins that read well. -/
def levels (a b : Bool) : Pins := ⟨a, false, b, false⟩

/-- A live block with the decoder elements and the pins given. -/
def decoder (hist acc : BitVec 8) (sens : Sensitivity) (p : Pins) : State :=
  { constructed with hist := hist, acc := acc, sens := sens, pins := p }

/-- The start of V-TUPD's single-step vectors: ACC = 1, HIST = `0x01`, SENS = 2, WIN = 25, TLAST = 100, the pins at 11,
so that an UPDATE is an event. -/
def tracker (vel incf : F32) : State :=
  { decoder 0x01 1 .default (levels true true) with vel := vel, incf := incf, tlast := 100 }

/-- A live block with VEL and DECF given, as V-DEC's rows. -/
def decaying (vel decf : F32) : State :=
  { constructed with vel := vel, decf := decf }

/-- The same block with the other outcome of R174. -/
def strictly (s : State) : State :=
  { s with cfg := ⟨true, true⟩ }

/-- The same block without unit VT. -/
def withoutVelocity (s : State) : State :=
  { s with cfg := ⟨false, false⟩ }

/-- The same block not live. -/
def dead (s : State) : State :=
  { s with live := false }

/-- The command word `w` next, the pins as they are. -/
def issue (w : CommandWord) (s : State) : State :=
  { s with inputs := [.command w s.pins] }

/-- The next state of an outcome. -/
def after : Host.Outcome State Fault Refusal → Option State
  | .next s => some s
  | .fault _ => none
  | .refused _ => none

/-- The refusal of an outcome. -/
def refusal : Host.Outcome State Fault Refusal → Option Refusal
  | .next _ => none
  | .fault _ => none
  | .refused r => some r

/-- The fault of an outcome. -/
def fault : Host.Outcome State Fault Refusal → Option Fault
  | .next _ => none
  | .fault r => some r
  | .refused _ => none

/-- HIST, ACC, DIR. -/
def decoderOf (s : State) : BitVec 8 × Int × Direction :=
  (s.hist, s.acc.toInt, s.dir)

/-- The ten state elements, in the order of R40's list in spec/95_test_vectors.md. -/
structure Elements where
  hist : BitVec 8
  acc : Int
  dir : Direction
  sens : Sensitivity
  live : Bool
  vel : F32
  incf : F32
  decf : F32
  win : Millis
  tlast : Millis
deriving DecidableEq, Repr

/-- The ten state elements of a state. -/
def elements (s : State) : Elements :=
  ⟨s.hist, s.acc.toInt, s.dir, s.sens, s.live, s.vel, s.incf, s.decf, s.win, s.tlast⟩

/-! ### Decoding (words of P1 to P6, V-LIFE, V-SET) -/

theorem test_decode_format_N :
    decode 0x0_0000000000000000 = .ok .construct ∧ decode 0x1_0000000000000000 = .ok .update ∧
    decode 0x3_0000000000000000 = .ok .getdir ∧ decode 0x4_0000000000000000 = .ok .borrowpins ∧
    decode 0x5_0000000000000000 = .ok .release ∧ decode 0x6_0000000000000000 = .ok .borrowinner ∧
    decode 0x9_0000000000000000 = .ok .decay ∧ decode 0xD_0000000000000000 = .ok .getvel := by decide

/-- R75: opcode `0010`, 61 zeros, `mag` in bits 2:0. -/
theorem test_decode_format_S :
    decode 0x2_0000000000000004 = .ok (.setsens 4) ∧ decode 0x2_0000000000000002 = .ok (.setsens 2) ∧
    decode (0b0010#4 ++ 0#61 ++ 0b101#3) = .ok (.setsens 5) := by decide

/-- R76: opcode, 32 zeros, the pattern in bits 31:0. -/
theorem test_decode_format_F :
    decode 0xA_000000003E4CCCCD = .ok (.setinc 0x3E4CCCCD) ∧ decode 0xA_00000000FFC00000 = .ok (.setinc 0xFFC00000) ∧
    decode 0xB_000000003C23D70A = .ok (.setdec 0x3C23D70A) ∧
    decode (0b1011#4 ++ 0#32 ++ 0x3E800000#32) = .ok (.setdec 0x3E800000) := by decide

/-- R77: opcode, the time in all 64 bits below it. -/
theorem test_decode_format_T :
    decode 0x8_00000000000003F2 = .ok (.tupdate 1010) ∧
    decode 0x8_FFFFFFFFFFFFFFFF = .ok (.tupdate 18446744073709551615) ∧
    decode 0xC_0000000000000032 = .ok (.setwin 50) ∧
    decode 0xC_FFFFFFFFFFFFFFFF = .ok (.setwin 18446744073709551615) := by decide

/-- V-LIFE. -/
theorem test_decode_rejects :
    decode 0x7_0000000000000000 = .error .illegalOpcode ∧ decode 0xE_0000000000000000 = .error .illegalOpcode ∧
    decode 0xF_FFFFFFFFFFFFFFFF = .error .illegalOpcode ∧ decode 0x1_0000000000000001 = .error .reservedBits ∧
    decode 0x9_8000000000000000 = .error .reservedBits ∧ decode 0x2_000000000000000A = .error .reservedBits ∧
    decode 0x0_0000000000000001 = .error .reservedBits ∧ decode 0xA_000000013E4CCCCD = .error .reservedBits := by
  decide

/-- The host's numbering: bit 0 of the table word is bit 0 of the operand, the opcode stands at bit 64 (R70). -/
theorem test_decode_table_word :
    decodeTableWord 68 0x80000000000000005 = some (.tupdate 5) ∧ decodeTableWord 68 0 = some .construct ∧
    decodeTableWord 68 0x70000000000000000 = none ∧ decodeTableWord 72 0x100000000000000000 = none := by decide

theorem test_withFetchWord_runs_the_word :
    after (step (State.reset.withFetchWord 68 0)) = some constructed ∧
    refusal (step (State.reset.withFetchWord 68 0x10000000000000000)) = some .notLive := by decide

/-! ### Well-formedness: the check refuses an ill-formed term -/

/-- V-LIFE: BadSensitivity for every magnitude but 2 and 4. -/
theorem test_wellFormed_magnitude :
    Instr.wellFormed (.setsens 0) = false ∧ Instr.wellFormed (.setsens 1) = false ∧
    Instr.wellFormed (.setsens 2) = true ∧ Instr.wellFormed (.setsens 3) = false ∧
    Instr.wellFormed (.setsens 4) = true ∧ Instr.wellFormed (.setsens 5) = false ∧
    Instr.wellFormed (.setsens 6) = false ∧ Instr.wellFormed (.setsens 7) = false := by decide

/-- R76, R77, R88: formats F and T admit every operand. -/
theorem test_wellFormed_admits_every_operand :
    Instr.wellFormed (.setinc 0xFFC00000) = true ∧ Instr.wellFormed (.tupdate 0xFFFFFFFFFFFFFFFF) = true ∧
    Instr.wellFormed (.setwin 0) = true := by decide

/-! ### Acceptance (V-LIFE) -/

theorem test_acceptance_order :
    refusal (step (issue 0x7_0000000000000000 State.reset)) = some .illegalOpcode ∧
    refusal (step (issue 0x0_0000000000000001 constructed)) = some .reservedBits ∧
    refusal (step (issue 0x2_000000000000000B constructed)) = some .reservedBits ∧
    refusal (step (issue 0x2_0000000000000003 constructed)) = some .badSensitivity ∧
    refusal (step (issue 0x0_0000000000000000 constructed)) = some .alreadyLive ∧
    refusal (step (issue 0x3_0000000000000000 State.reset)) = some .notLive := by decide

theorem test_acceptance_without_velocity_unit :
    refusal (step (issue 0x9_0000000000000000 (withoutVelocity constructed))) = some .noVelocityUnit ∧
    refusal (step (issue 0x9_0000000000000001 (withoutVelocity constructed))) = some .noVelocityUnit ∧
    (after (step (issue 0x1_0000000000000000 (withoutVelocity constructed)))).isSome = true := by decide

/-! ### Commands of unit DEC -/

/-- S9. -/
theorem test_construct :
    (after (exec .construct { dead (tracker 0x3F000000 0x3F000000) with dir := .clockwise, sens := .low })).map elements =
      some ⟨0x00, 0, .none, .default, true, 0x00000000, 0x3E4CCCCD, 0x3C23D70A, 25, 0⟩ := by decide

/-- V-UPD (d). -/
theorem test_update_event :
    (after (exec .update (decoder 0x01 1 .default (levels true true)))).map decoderOf = some (0x07, 0, .clockwise) ∧
    (after (exec .update (decoder 0x02 0xFF .default (levels true true)))).map decoderOf =
      some (0x0B, 0, .anticlockwise) ∧
    (after (exec .update (decoder 0x01 1 .low (levels true true)))).map decoderOf = some (0x07, 2, .none) := by decide

/-- V-UPD (b) steps 2 and 4, (a) step 6: failed reads count as low, the oldest two bits of HIST leave. -/
theorem test_update_samples_and_shifts :
    (after (exec .update (decoder 0x00 0 .default ⟨true, true, true, false⟩))).map decoderOf = some (0x01, 1, .none) ∧
    (after (exec .update (decoder 0x06 1 .default ⟨true, true, true, true⟩))).map decoderOf =
      some (0x18, 0, .clockwise) ∧
    (after (exec .update (decoder 0x41 1 .default (levels false true)))).map decoderOf = some (0x05, 1, .none) := by
  decide

/-- V-OVF: 127 plus 1, as the hardware and as the model outcome. -/
theorem test_update_overflow :
    (after (exec .update (decoder 0x1E 127 .default (levels false false)))).map decoderOf =
      some (0x78, -128, .none) ∧
    fault (exec .update (strictly (decoder 0x1E 127 .default (levels false false)))) = some .accOverflow := by decide

/-- V-SENS row 1. -/
theorem test_setsens :
    (after (exec (.setsens 4) (decoder 0x01 1 .default (levels true true)))).map elements =
      some ⟨0x01, 1, .none, .low, true, 0x00000000, 0x3E4CCCCD, 0x3C23D70A, 25, 0⟩ := by decide

/-- V-SENS rows 3 and 7: events after the sensitivity is lowered, one with no step at all. -/
theorem test_setsens_corner :
    (after (andThen (exec (.setsens 2) (decoder 0x07 2 .low (levels true true))) (exec .update))).map decoderOf =
      some (0x1F, 0, .clockwise) ∧
    (after (andThen (exec (.setsens 2) (decoder 0x1E 3 .low (levels true true))) (exec .update))).map decoderOf =
      some (0x7B, 0, .clockwise) := by decide

/-- V-DIR. -/
theorem test_getdir :
    (after (exec .getdir constructed)).map (·.rsp) = some (some 0x0000000000000000) ∧
    (after (exec .getdir { constructed with dir := .clockwise })).map (·.rsp) = some (some 0x0000000000000001) ∧
    (after (exec .getdir { constructed with dir := .anticlockwise })).map (·.rsp) =
      some (some 0x0000000000000002) := by decide

/-- P4 step 5. -/
theorem test_borrowpins :
    after (exec .borrowpins (decoder 0x07 2 .low (levels true true))) =
      some (decoder 0x07 2 .low (levels true true)) := by decide

/-- P4 step 6, and V-LIFE: the second RELEASE. -/
theorem test_release :
    (after (exec .release (decoder 0x07 2 .low (levels true true)))).map elements =
      some ⟨0x07, 2, .none, .low, false, 0x00000000, 0x3E4CCCCD, 0x3C23D70A, 25, 0⟩ ∧
    refusal (andThen (exec .release constructed) (exec .release)) = some .notLive := by decide

/-! ### Commands of unit VT -/

/-- V-TUPD steps 2, 3 and 5: a quiet call, an event inside the window, one at its boundary. -/
theorem test_tupdate_window :
    (after (exec (.tupdate 100) { constructed with pins := levels false true })).map elements =
      some ⟨0x01, 1, .none, .default, true, 0x00000000, 0x3E4CCCCD, 0x3C23D70A, 25, 100⟩ ∧
    (after (exec (.tupdate 124) (tracker 0x00000000 0x3E4CCCCD))).map elements =
      some ⟨0x07, 0, .clockwise, .default, true, 0x3E4CCCCD, 0x3E4CCCCD, 0x3C23D70A, 25, 100⟩ ∧
    (after (exec (.tupdate 125) (tracker 0x3E4CCCCD 0x3E4CCCCD))).map elements =
      some ⟨0x07, 0, .clockwise, .default, true, 0x3E4CCCCD, 0x3E4CCCCD, 0x3C23D70A, 25, 100⟩ := by decide

/-- V-TUPD, the text below its second table: `TUPDATE 90` with TLAST = 100. -/
theorem test_tupdate_backwards :
    fault (exec (.tupdate 90) (strictly (tracker 0x00000000 0x3E4CCCCD))) = some .timeBackwards ∧
    (after (exec (.tupdate 90) (tracker 0x00000000 0x3E4CCCCD))).map (fun s => (s.vel, s.tlast)) =
      some (0x00000000, 100) ∧
    (after (exec (.tupdate 90) (strictly { tracker 0x00000000 0x3E4CCCCD with pins := levels false true }))).map
      (fun s => (s.vel, s.tlast)) = some (0x00000000, 90) := by decide

/-- V-TUPD, the second table. -/
theorem test_increment :
    incrementedVel (tracker 0x3F4CCCCD 0x3E4CCCCD) = 0x3F800000 ∧
    incrementedVel (tracker 0x3F4CCCCD 0x3F000000) = 0x3F800000 ∧
    incrementedVel (tracker 0x3F7FFFFF 0x3E4CCCCD) = 0x3F800000 ∧
    incrementedVel (tracker 0x00000000 0x7F800000) = 0x3F800000 ∧
    incrementedVel (tracker 0x3F000000 0x80000000) = 0x3F000000 ∧
    incrementedVel (tracker 0x3F000000 0x32800000) = 0x3F000000 ∧
    incrementedVel (tracker 0x3EC28F5D 0x3E4CCCCD) = 0x3F147AE2 := by decide

/-- V-TUPD, its last three rows: an illegal factor gives the free value, and only where it is used. -/
theorem test_increment_illegal_factor :
    (after (exec (.tupdate 110) (tracker 0x3F000000 0xBE4CCCCD))).map (·.vel) = some (Config.anyF32 0) ∧
    (after (exec (.tupdate 110) (tracker 0x3F000000 0x7FC00000))).map (·.vel) = some (Config.anyF32 0) ∧
    (after (exec (.tupdate 110) (tracker 0x3F800000 0xBE4CCCCD))).map (·.vel) = some 0x3F800000 :=
  ⟨rfl, rfl, rfl⟩

/-- V-DEC. -/
theorem test_decay :
    (after (exec .decay (decaying 0x3F800000 0x3C23D70A))).map (·.vel) = some 0x3F7D70A4 ∧
    (after (exec .decay (decaying 0x3E4CCCCD 0x3C23D70A))).map (·.vel) = some 0x3E428F5C ∧
    (after (exec .decay (decaying 0x3C23D6FA 0x3C23D70A))).map (·.vel) = some 0x00000000 ∧
    (after (exec .decay (decaying 0x3F800000 0x7F800000))).map (·.vel) = some 0x00000000 ∧
    (after (exec .decay (decaying 0x3F800000 0x33800000))).map (·.vel) = some 0x3F7FFFFF ∧
    (after (exec .decay (decaying 0x3F800000 0x33000000))).map (·.vel) = some 0x3F800000 ∧
    (after (exec .decay (decaying 0x3F000000 0x33000000))).map (·.vel) = some 0x3EFFFFFF ∧
    (after (exec .decay (decaying 0x00000001 0x00000001))).map (·.vel) = some 0x00000000 := by decide

/-- V-DEC, its last two rows. -/
theorem test_decay_illegal_factor :
    (after (exec .decay (decaying 0x3F000000 0xBC23D70A))).map (·.vel) = some (Config.anyF32 0) ∧
    (after (exec .decay (decaying 0x3F000000 0xFFC00000))).map (·.vel) = some (Config.anyF32 0) :=
  ⟨rfl, rfl⟩

/-- V-SET: "None of them changes VEL, TLAST or any decoder element." -/
theorem test_setters :
    (after (exec (.setinc 0x7FC00000) constructed)).map elements =
      some ⟨0x00, 0, .none, .default, true, 0x00000000, 0x7FC00000, 0x3C23D70A, 25, 0⟩ ∧
    (after (exec (.setdec 0x3E800000) constructed)).map elements =
      some ⟨0x00, 0, .none, .default, true, 0x00000000, 0x3E4CCCCD, 0x3E800000, 25, 0⟩ ∧
    (after (exec (.setwin 50) constructed)).map elements =
      some ⟨0x00, 0, .none, .default, true, 0x00000000, 0x3E4CCCCD, 0x3C23D70A, 50, 0⟩ := by decide

/-- V-SET. -/
theorem test_getvel :
    (after (exec .getvel { constructed with vel := 0x3F19999A })).map (·.rsp) = some (some 0x000000003F19999A) := by
  decide

/-- R147. -/
theorem test_borrowinner :
    after (exec .borrowinner (tracker 0x3F000000 0x3E4CCCCD)) = some (tracker 0x3F000000 0x3E4CCCCD) := by decide

/-- R200: a reset between two commands. -/
theorem test_reset_input :
    (after (step { tracker 0x3F000000 0x3F000000 with inputs := [.reset], sens := .low })).map elements =
      some ⟨0x00, 0, .none, .default, false, 0x00000000, 0x3E4CCCCD, 0x3C23D70A, 25, 0⟩ := by decide

/-! ### Witnesses: states and operands that meet the hypotheses of each statement, clause by clause -/

theorem witness_EncodeOfDecodeIsTheWord : decode 0x8_FFFFFFFFFFFFFFFF = .ok (.tupdate 0xFFFFFFFFFFFFFFFF) := by decide

theorem witness_DecodeFollowsTheMatchMaskTable :
    (∀ row ∈ opcodeTable, row.pattern &&& row.mask = row.pattern) ∧
    (∀ row ∈ opcodeTable, (0xE_0000000000000000 : CommandWord) &&& row.mask ≠ row.pattern) ∧
    (∀ row ∈ opcodeTable, (0x2_0000000000000008 : CommandWord) &&& row.mask ≠ row.pattern) ∧
    (7 : BitVec 3) ∈ ([0, 1, 3, 5, 6, 7] : List (BitVec 3)) := by decide

theorem witness_ReservedOpcodesSpellNoCommand :
    decode 0x5_0000000000000000 = .ok .release ∧
    (issue 0x7_0000000000000001 constructed).inputs = .command 0x7_0000000000000001 (levels false false) :: [] ∧
    opcodeOf 0x7_0000000000000001 = 0x7 ∧ opcodeOf 0xE_0000000000000000 = 0xE ∧
    opcodeOf 0xF_FFFFFFFFFFFFFFFF = 0xF := by decide

theorem witness_NonzeroReservedFieldIsRefused :
    (issue 0x1_8000000000000000 constructed).inputs = .command 0x1_8000000000000000 (levels false false) :: [] ∧
    ((opcodeOf 0x1_8000000000000000).toNat ∈ [0x0, 0x1, 0x3, 0x4, 0x5, 0x6, 0x9, 0xD] ∧
      (0x1_8000000000000000 : CommandWord).extractLsb' 0 64 ≠ 0) ∧
    (opcodeOf 0x2_000000000000000A = 0x2 ∧ (0x2_000000000000000A : CommandWord).extractLsb' 3 61 ≠ 0) ∧
    (opcodeOf 0xA_0000000100000000 = 0xA ∧ (0xA_0000000100000000 : CommandWord).extractLsb' 32 32 ≠ 0) ∧
    (opcodeOf 0xB_8000000000000000 = 0xB ∧ (0xB_8000000000000000 : CommandWord).extractLsb' 32 32 ≠ 0) ∧
    opcodeOf 0x8_FFFFFFFFFFFFFFFF = 0x8 ∧ opcodeOf 0xC_FFFFFFFFFFFFFFFF = 0xC := by decide

theorem witness_OtherMagnitudesAreRefused : (3 : BitVec 3) ≠ 2 ∧ (3 : BitVec 3) ≠ 4 := by decide

theorem witness_AcceptanceCheckDecidesEveryCommand :
    (issue 0x1_0000000000000000 constructed).inputs = .command 0x1_0000000000000000 (levels false false) :: [] ∧
    acceptance constructed.cfg true 0x1_0000000000000000 = none ∧
    acceptance constructed.cfg true 0x7_0000000000000001 = some .illegalOpcode ∧
    acceptance (withoutVelocity constructed).cfg true 0x9_0000000000000001 = some .noVelocityUnit ∧
    acceptance constructed.cfg true 0x2_000000000000000B = some .reservedBits ∧
    acceptance constructed.cfg false 0x2_0000000000000003 = some .badSensitivity ∧
    acceptance constructed.cfg true 0x0_0000000000000000 = some .alreadyLive ∧
    acceptance constructed.cfg false 0x1_0000000000000000 = some .notLive := by decide

theorem witness_StepRunsTheDecodedCommand :
    (issue 0x8_00000000000003F2 constructed).inputs = .command 0x8_00000000000003F2 (levels false false) :: [] ∧
    decode 0x8_00000000000003F2 = .ok (.tupdate 1010) := by decide

theorem witness_StepWaitsOrResets :
    constructed.inputs = [] ∧
    { constructed with inputs := [.reset, .reset] }.inputs = .reset :: [.reset] ∧
    constructed.cfg.hasVelocity = true ∧ (withoutVelocity constructed).cfg.hasVelocity = false := by decide

theorem witness_RefusedCommandLeavesNoTrace :
    ∃ s : State, s.inputs = [.command 0x0_0000000000000000 (levels true true), .command 0x1_0000000000000000 (levels true false)] ∧
      step s = .refused .alreadyLive :=
  ⟨{ constructed with
      inputs := [.command 0x0_0000000000000000 (levels true true), .command 0x1_0000000000000000 (levels true false)] },
    rfl, rfl⟩

/-- The live, the released and the unit-less block, and a nonzero field of the formats N, S and F: the hypotheses of the
statements about one command's result (CONSTRUCT, SETSENS, GETDIR, BORROWPINS, RELEASE, BORROWINNER, the setters,
GETVEL, DECAY, TUPDATE) and of WithoutTheVelocityUnit. -/
theorem witness_life_and_unit :
    (constructed.live = true ∧ constructed.cfg.hasVelocity = true) ∧
    (State.reset.live = false ∧ State.reset.cfg.hasVelocity = true) ∧
    ((withoutVelocity constructed).live = true ∧ (withoutVelocity constructed).cfg.hasVelocity = false) ∧
    (withoutVelocity State.reset).live = false ∧
    (1 : Word64) ≠ 0 ∧ (8 : Word64).extractLsb' 3 61 ≠ 0 ∧ (0x100000000 : Word64).extractLsb' 32 32 ≠ 0 := by decide

theorem witness_ConstructWritesEveryElement : State.reset.live = false ∧ constructed.live = true := by decide

theorem witness_ReconstructionForgetsTheOldState :
    (tracker 0x3F000000 0x3F000000).live = true ∧ (tracker 0x3F000000 0x3F000000).cfg.hasVelocity = true := by decide

theorem witness_SetsensWritesOnlySens :
    constructed.live = true ∧ State.reset.live = false ∧ (5 : BitVec 3) ≠ 2 ∧ (5 : BitVec 3) ≠ 4 := by decide

theorem witness_UpdateFollowsItsSixSteps :
    (decoder 0x1E 127 .default (levels false false)).live = true ∧
    (decoder 0x1E 127 .default (levels false false)).cfg.strict = false ∧
    sumNow (decoder 0x1E 127 .default (levels false false)) = 128 ∧
    sumNow (decoder 0x00 0x80 .default (levels true false)) = -129 ∧
    (strictly (decoder 0x1E 127 .default (levels true true))).cfg.strict = true ∧
    sumNow (strictly (decoder 0x1E 127 .default (levels true true))) = 126 ∧
    State.reset.live = false := by decide

theorem witness_EventClearsTheAccumulatorAndReports :
    (∃ t, exec .update (decoder 0x01 1 .default (levels true true)) = .next t ∧ t.dir = .clockwise) ∧
    (∃ t, exec .update (decoder 0x02 0xFF .default (levels true true)) = .next t ∧ t.dir = .anticlockwise) ∧
    (∃ t, exec .update (decoder 0x01 1 .low (levels true true)) = .next t ∧ t.dir = .none) ∧
    (∃ t, exec .getdir { constructed with dir := .clockwise } = .next t) :=
  ⟨⟨_, rfl, rfl⟩, ⟨_, rfl, rfl⟩, ⟨_, rfl, rfl⟩, ⟨_, rfl⟩⟩

theorem witness_UpdateWithoutEventIsQuiet :
    ∃ t, exec .update (decoder 0x01 1 .low (levels true true)) = .next t ∧
      (BitVec.ofInt 8 (sumNow (decoder 0x01 1 .low (levels true true)))).toInt.natAbs ≠ threshold .low :=
  ⟨_, rfl, by decide⟩

theorem witness_AccumulatorWrapsModulo256 : (wrap8 (-128)).toInt = -128 ∧ (wrap8 127).toInt = 127 := by decide

theorem witness_AccumulatorOverflowWrapsOrFaults :
    127 < sumNow (decoder 0x1E 127 .default (levels false false)) ∧
    sumNow (decoder 0x00 0x80 .default (levels true false)) < -128 ∧
    (decoder 0x1E 127 .default (levels false false)).live = true ∧
    (decoder 0x1E 127 .default (levels false false)).cfg = ⟨true, false⟩ ∧
    (strictly (decoder 0x1E 127 .default (levels false false))).cfg = ⟨true, true⟩ := by decide

/-- R108's clauses: ACC = 2, -2, 3 and -3 (the boundaries of "at or above the threshold") with each step value. -/
theorem witness_LoweredSensitivityCorner :
    (∃ t, exec .update (decoder 0x07 2 .default (levels true true)) = .next t ∧
      sumNow (decoder 0x07 2 .default (levels true true)) = 2) ∧
    (∃ t, exec .update (decoder 0x07 2 .default (levels false true)) = .next t ∧
      sumNow (decoder 0x07 2 .default (levels false true)) = 1) ∧
    (∃ t, exec .update (decoder 0x07 2 .default (levels true false)) = .next t ∧
      sumNow (decoder 0x07 2 .default (levels true false)) = 3) ∧
    (∃ t, exec .update (decoder 0x0B 0xFE .default (levels true true)) = .next t ∧
      sumNow (decoder 0x0B 0xFE .default (levels true true)) = -2) ∧
    (∃ t, exec .update (decoder 0x0B 0xFE .default (levels true false)) = .next t ∧
      sumNow (decoder 0x0B 0xFE .default (levels true false)) = -1) ∧
    (∃ t, exec .update (decoder 0x0B 0xFE .default (levels false true)) = .next t ∧
      sumNow (decoder 0x0B 0xFE .default (levels false true)) = -3) ∧
    (∃ t, exec .update (decoder 0x1E 3 .default (levels true true)) = .next t ∧
      sumNow (decoder 0x1E 3 .default (levels true true)) = 2) ∧
    (∃ t, exec .update (decoder 0x1E 126 .default (levels false false)) = .next t ∧
      sumNow (decoder 0x1E 126 .default (levels false false)) = 127) ∧
    (∃ t, exec .update (decoder 0x0B 0xFD .default (levels true false)) = .next t ∧
      sumNow (decoder 0x0B 0xFD .default (levels true false)) = -2) ∧
    (∃ t, exec .update (decoder 0x0B 0x81 .default (levels false true)) = .next t ∧
      sumNow (decoder 0x0B 0x81 .default (levels false true)) = -128) :=
  ⟨⟨_, rfl, by decide⟩, ⟨_, rfl, by decide⟩, ⟨_, rfl, by decide⟩, ⟨_, rfl, by decide⟩, ⟨_, rfl, by decide⟩,
    ⟨_, rfl, by decide⟩, ⟨_, rfl, by decide⟩, ⟨_, rfl, by decide⟩, ⟨_, rfl, by decide⟩, ⟨_, rfl, by decide⟩⟩

theorem witness_OneUpdateMovesTheAccumulatorByAtMostOne :
    (∃ t, accBound (decoder 0x01 1 .default (levels true true)) = true ∧
      exec .update (decoder 0x01 1 .default (levels true true)) = .next t ∧ t.dir ≠ .none) ∧
    (∃ t, accBound (decoder 0x1E 3 .low (levels true false)) = true ∧
      exec .update (decoder 0x1E 3 .low (levels true false)) = .next t ∧ t.dir = .none ∧
      stepValue (previousSample (decoder 0x1E 3 .low (levels true false))) 0b10 = 0) :=
  ⟨⟨_, by decide, rfl, by decide⟩, ⟨_, by decide, rfl, by decide, by decide⟩⟩

theorem witness_EventsNeverFollowDirectly :
    ∃ t u, exec .update (decoder 0x01 1 .default (levels true true)) = .next t ∧ t.dir ≠ .none ∧
      exec .update { t with pins := levels true false } = .next u :=
  ⟨_, _, rfl, by decide, rfl⟩

/-- ACC = 3 with Low and a first step towards zero; ACC = 2 and one away from it. -/
theorem witness_StepAndReverseNetZero :
    (∃ t u, accBound (decoder 0x1E 3 .low (levels true false)) = true ∧
      (sumNow { decoder 0x1E 3 .low (levels true false) with pins := levels true true }).natAbs < threshold .low ∧
      sampleOf (levels true false) = previousSample (decoder 0x1E 3 .low (levels true false)) ∧
      exec .update { decoder 0x1E 3 .low (levels true false) with pins := levels true true } = .next t ∧
      exec .update { t with pins := levels true false } = .next u) ∧
    ∃ t u, accBound (decoder 0x07 2 .low (levels true true)) = true ∧
      (sumNow { decoder 0x07 2 .low (levels true true) with pins := levels true false }).natAbs < threshold .low ∧
      sampleOf (levels true true) = previousSample (decoder 0x07 2 .low (levels true true)) ∧
      exec .update { decoder 0x07 2 .low (levels true true) with pins := levels true false } = .next t ∧
      exec .update { t with pins := levels true true } = .next u :=
  ⟨⟨_, _, by decide, by decide, by decide, rfl, rfl⟩, ⟨_, _, by decide, by decide, by decide, rfl, rfl⟩⟩

/-- S2: three net steps with Low, and the fourth. -/
theorem witness_ThresholdCountsNetValidSteps :
    (decoder 0x00 0 .low (levels false false)).live = true ∧ (decoder 0x00 0 .low (levels false false)).acc = 0 ∧
    (∀ k, k ≤ 3 → (netSteps (previousSample (decoder 0x00 0 .low (levels false false)))
      (([levels false true, levels true true, levels true false] : List Pins).take k)).natAbs < threshold .low) ∧
    (netSteps (previousSample (decoder 0x00 0 .low (levels false false)))
      ([levels false true, levels true true, levels true false] ++ [levels false false])).natAbs = threshold .low := by
  decide

theorem witness_ReleaseClearsOnlyLive :
    ∃ t, exec .release constructed = .next t ∧ Instr.wellFormed (.setsens 2) = true ∧
      constructed.cfg.hasVelocity = true ∧ Instr.setsens 2 ≠ .construct :=
  ⟨_, rfl, by decide⟩

theorem witness_PinsMatterOnlyAsEffectiveLevels :
    ((⟨true, true, true, false⟩ : Pins).a && !(⟨true, true, true, false⟩ : Pins).aErr) = (levels false true).a ∧
    ((⟨true, true, true, false⟩ : Pins).b && !(⟨true, true, true, false⟩ : Pins).bErr) = (levels false true).b ∧
    Instr.getvel ≠ .update ∧ ∀ t, Instr.getvel ≠ .tupdate t :=
  ⟨rfl, rfl, by decide, fun _ h => by cases h⟩

theorem witness_QuietTupdateRecordsItsTimestamp :
    constructed.cfg.hasVelocity = true ∧ constructed.live = true ∧
    -128 ≤ sumNow { constructed with pins := levels false true } ∧
    sumNow { constructed with pins := levels false true } ≤ 127 ∧
    (sumNow { constructed with pins := levels false true }).natAbs ≠ threshold .default := by decide

/-- Inside the window with a legal factor, at the window's boundary, and at the ceiling. -/
theorem witness_EventTupdateRaisesVelocityInsideTheWindow :
    (tracker 0x3F000000 0x3E4CCCCD).cfg = ⟨true, false⟩ ∧ (tracker 0x3F000000 0x3E4CCCCD).live = true ∧
    (sumNow (tracker 0x3F000000 0x3E4CCCCD)).natAbs = threshold .default ∧
    (124 + 2 ^ 64 - (tracker 0x3F000000 0x3E4CCCCD).tlast.toNat) % 2 ^ 64 < (25 : Millis).toNat ∧
    ¬ (125 + 2 ^ 64 - (tracker 0x3F000000 0x3E4CCCCD).tlast.toNat) % 2 ^ 64 < (25 : Millis).toNat ∧
    flt 0x3F000000 0x3F800000 = true ∧ flt 0x3F800000 0x3F800000 = false ∧
    legalFactor 0x3E4CCCCD = true := by decide

theorem witness_IncrementCornerCases :
    (tracker 0x00000000 0x7F800000).cfg = ⟨true, false⟩ ∧ (tracker 0x00000000 0x7F800000).live = true ∧
    (sumNow (tracker 0x00000000 0x7F800000)).natAbs = threshold .default ∧
    (124 + 2 ^ 64 - (tracker 0x00000000 0x7F800000).tlast.toNat) % 2 ^ 64 < (25 : Millis).toNat ∧
    flt 0x00000000 0x3F800000 = true ∧ flt 0x3F7FFFFF 0x3F800000 = true ∧
    velBound 0x00000000 = true ∧ velBound 0x3F7FFFFF = true ∧
    legalFactor 0x7F800000 = true ∧ legalFactor 0x00000000 = true ∧ legalFactor 0x80000000 = true := by decide

theorem witness_IllegalFactorGivesAFreeValue :
    (tracker 0x3F000000 0xBE4CCCCD).cfg = ⟨true, false⟩ ∧ (tracker 0x3F000000 0xBE4CCCCD).live = true ∧
    (sumNow (tracker 0x3F000000 0xBE4CCCCD)).natAbs = threshold .default ∧
    (100 + 2 ^ 64 - (tracker 0x3F000000 0xBE4CCCCD).tlast.toNat) % 2 ^ 64 < (25 : Millis).toNat ∧
    flt 0x3F000000 0x3F800000 = true ∧ legalFactor (tracker 0x3F000000 0xBE4CCCCD).incf = false ∧
    legalFactor (decaying 0x3F000000 0xFFC00000).decf = false := by decide

theorem witness_BackwardTimestampHasAHugeElapsedTime :
    (tracker 0x3F000000 0x3E4CCCCD).cfg = ⟨true, false⟩ ∧ (tracker 0x3F000000 0x3E4CCCCD).live = true ∧
    (sumNow (tracker 0x3F000000 0x3E4CCCCD)).natAbs = threshold .default ∧
    (99 : Millis).toNat < (tracker 0x3F000000 0x3E4CCCCD).tlast.toNat ∧
    (strictly (tracker 0x3F000000 0x3E4CCCCD)).cfg.strict = true ∧
    (25 : Millis).toNat ≤ 2 ^ 64 - (tracker 0x3F000000 0x3E4CCCCD).tlast.toNat := by decide

theorem witness_DecaySubtractsAndClampsAtZero :
    constructed.cfg.hasVelocity = true ∧ constructed.live = true ∧ legalFactor 0x80000000 = true ∧
    State.reset.live = false ∧ (withoutVelocity constructed).cfg.hasVelocity = false ∧ (1 : Word64) ≠ 0 := by decide

theorem witness_DecayCornerCases :
    velBound 0x00000000 = true ∧ velBound 0x3F800000 = true ∧ legalFactor 0x00000000 = true ∧
    legalFactor 0x80000000 = true ∧ legalFactor 0x7F800000 = true ∧
    (∃ t, exec .decay (decaying 0x3F800000 0x7F800000) = .next t) ∧
    (∃ t, exec .decay (decaying 0x3F800000 0x80000000) = .next t) ∧
    ∃ t, exec .decay (decaying 0x00000000 0x3C23D70A) = .next t :=
  ⟨by decide, by decide, by decide, by decide, by decide, ⟨_, rfl⟩, ⟨_, rfl⟩, ⟨_, rfl⟩⟩

/-- Finite operands; an exact zero sum; a sum at the overflow threshold and its negative; a tie between two numbers; each
way to a NaN; an infinite first and second operand. -/
theorem witness_SumsAreRoundedToNearestEven :
    (isNaN 0x3F800000 = false ∧ isInf 0x3F800000 = false ∧ isNaN 0xB3000000 = false ∧ isInf 0xB3000000 = false) ∧
    fVal 0x3F800000 + fVal 0xBF800000 = 0 ∧
    (isNaN 0x7F7FFFFF = false ∧ isInf 0x7F7FFFFF = false ∧
      (2 ^ 25 - 1) * 2 ^ 252 ≤ (fVal 0x7F7FFFFF + fVal 0x73000000).natAbs) ∧
    (isInf (fadd 0 0x7F7FFFFF 0x73000000) = true ∧ isInf (fadd 0 0xFF7FFFFF 0xF3000000) = true) ∧
    isInf (fadd 0 0x3F800000 0xB3000000) = false ∧
    (fVal 0x3F7FFFFF - (fVal 0x3F800000 + fVal 0xB3000000)).natAbs =
      (fVal 0x3F800000 - (fVal 0x3F800000 + fVal 0xB3000000)).natAbs ∧
    isNaN 0x7F800001 = true ∧ (isInf 0x7F800000 = true ∧ isInf 0xFF800000 = true ∧ (0x7F800000 : F32) ≠ 0xFF800000) ∧
    isNaN 0x7F800000 = false := by decide

theorem witness_DefaultIncrementChain :
    constructed.incf = 0x3E4CCCCD ∧ constructed.vel = 0x00000000 ∧ (tracker 0x3E4CCCCD 0x3E4CCCCD).vel = 0x3E4CCCCD ∧
    (tracker 0x3ECCCCCD 0x3E4CCCCD).vel = 0x3ECCCCCD ∧ (tracker 0x3F19999A 0x3E4CCCCD).vel = 0x3F19999A ∧
    (tracker 0x3F4CCCCD 0x3E4CCCCD).vel = 0x3F4CCCCD ∧ (tracker 0x3F800000 0x3E4CCCCD).vel = 0x3F800000 := by decide

theorem witness_DecayNeverRaisesVelocity :
    ∃ t, velBound 0x3F800000 = true ∧ legalFactor 0x33000000 = true ∧
      exec .decay (decaying 0x3F800000 0x33000000) = .next t :=
  ⟨_, by decide, by decide, rfl⟩

theorem witness_DecayReachesZeroAndStays :
    (decaying 0x3F800000 0x33800000).cfg.hasVelocity = true ∧ (decaying 0x3F800000 0x33800000).live = true ∧
    velBound 0x3F800000 = true ∧ legalFactor 0x33800000 = true ∧ 0x33800000 ≤ (0x33800000 : F32).toNat ∧
    (0x33800000 : F32) ≠ 0x80000000 := by decide

theorem witness_OnlyTheListedCommandsWriteAnElement :
    ∃ t, exec (.tupdate 124) (tracker 0x00000000 0x3E4CCCCD) = .next t ∧ Instr.tupdate 124 ≠ .construct ∧
      (∀ m, Instr.tupdate 124 ≠ .setsens m) ∧ Instr.tupdate 124 ≠ .release :=
  ⟨_, rfl, by decide, fun _ => (by simp), by decide⟩

theorem witness_NothingButConstructRunsWhileNotLive :
    State.reset.live = false ∧ Instr.wellFormed (.setsens 4) = true ∧ State.reset.cfg.hasVelocity = true ∧
    (withoutVelocity State.reset).live = false ∧ Instr.needsVelocity .getdir = false ∧ Instr.getdir ≠ .construct := by
  decide

theorem witness_WithoutTheVelocityUnit :
    (withoutVelocity constructed).cfg.hasVelocity = false ∧ Instr.needsVelocity .getvel = true ∧
    (∃ t, step (issue 0x1_0000000000000000 (withoutVelocity constructed)) = .next t) ∧
    ∃ t, step { withoutVelocity constructed with inputs := [.reset] } = .next t :=
  ⟨by decide, by decide, ⟨_, rfl⟩, ⟨_, rfl⟩⟩

theorem witness_HardwareNeverFaults : constructed.cfg.strict = false := by decide

/-- Every obligation met, at its boundary: ACC = 1 with SETSENS Default, `t = TLAST`, factors of zero. -/
theorem witness_ContractKeepingHostMeetsNoFault :
    accBound (decoder 0x01 1 .low (levels true true)) = true ∧
    hostContract (issue 0x2_0000000000000002 (decoder 0x01 1 .low (levels true true))) = true ∧
    accBound (tracker 0x3F000000 0x00000000) = true ∧
    hostContract (issue 0x8_0000000000000064 (tracker 0x3F000000 0x00000000)) = true ∧
    hostContract (issue 0x9_0000000000000000 (decaying 0x3F000000 0x80000000)) = true := by decide

theorem witness_AccumulatorStaysBelowSensitivity :
    accBound (issue 0x2_0000000000000002 (decoder 0x01 1 .low (levels true true))) = true ∧
    (∀ mag, nextCommand (issue 0x2_0000000000000002 (decoder 0x01 1 .low (levels true true))) = some (.setsens mag) →
      (decoder 0x01 1 .low (levels true true)).acc.toInt.natAbs < mag.toNat) ∧
    (after (step (issue 0x2_0000000000000002 (decoder 0x01 1 .low (levels true true))))).isSome = true := by decide

theorem witness_VelocityStaysBetweenZeroAndOne :
    velBound (tracker 0x3F7FFFFF 0x7F800000).vel = true ∧ legalFactor (tracker 0x3F7FFFFF 0x7F800000).incf = true ∧
    nextCommand (issue 0x8_000000000000006E (tracker 0x3F7FFFFF 0x7F800000)) = some (.tupdate 110) ∧
    (after (step (issue 0x8_000000000000006E (tracker 0x3F7FFFFF 0x7F800000)))).isSome = true ∧
    nextCommand (issue 0x9_0000000000000000 (decaying 0x3F800000 0x80000000)) = some .decay ∧
    velBound (decaying 0x3F800000 0x80000000).vel = true ∧
    legalFactor (decaying 0x3F800000 0x80000000).decf = true := by decide

theorem witness_EveryStepKeepsTheInvariant :
    ∃ t, Inv { constructed with
        dir := .clockwise, rsp := some 1, outputs := [0, 1], inputs := [.command 0x3_0000000000000000 (levels true true)] } ∧
      step { constructed with
        dir := .clockwise, rsp := some 1, outputs := [0, 1], inputs := [.command 0x3_0000000000000000 (levels true true)] } =
        .next t :=
  ⟨_, ⟨fun _ => rfl, fun v hv => by cases hv; rfl, fun v hv => by
    rcases List.mem_pair.1 hv with rfl | rfl <;> decide⟩, rfl⟩

/-- R204's settings between CONSTRUCT and the first TUPDATE. -/
theorem witness_FirstTupdateIsQuiet :
    ∃ t u, exec .construct State.reset = .next t ∧ State.reset.cfg.hasVelocity = true ∧
      (∀ i ∈ [Instr.setsens 4, .setwin 50, .getvel], i ≠ .update ∧ ∀ m, i ≠ .tupdate m) ∧
      commands [.setsens 4, .setwin 50, .getvel] t = .next u ∧ u.live = true ∧
      Instr.decay ∉ [Instr.setsens 4, .setwin 50, .getvel] :=
  ⟨_, _, rfl, rfl, by simp, rfl, rfl, by decide⟩

theorem witness_OldHistoryIsNeverObserved :
    sameButOldHistory (decoder 0x0B 1 .low (levels true true)) (decoder 0xAB 1 .low (levels true true)) :=
  ⟨by decide, rfl⟩

theorem witness_ElementsOfADeadBlockAreNeverObserved :
    (dead (decoder 0x0B 1 .low (levels true true))).live = false ∧ State.reset.live = false ∧
    sameView (dead (decoder 0x0B 1 .low (levels true true))) State.reset ∧
    State.reset.cfg = (dead (decoder 0x0B 1 .low (levels true true))).cfg ∧
    State.reset.draws = (dead (decoder 0x0B 1 .low (levels true true))).draws :=
  ⟨rfl, rfl, ⟨rfl, rfl, rfl⟩, rfl, rfl⟩

end Sys2Proof.Tests
end

/-! SUPPORT. UPDATE and the decoder step of TUPDATE (spec/40_decoder.md R103): one rule for the event, one for the quiet
call. -/

namespace Sys2Proof.Machine

variable {s : State}

/-- R105: the state an event leaves. -/
def afterEvent (s : State) : State :=
  { s with hist := historyNow s, acc := 0, dir := if 0 < sumNow s then .clockwise else .anticlockwise }

/-- R106: the state an UPDATE without an event leaves. -/
def afterQuiet (s : State) : State :=
  { s with hist := historyNow s, acc := BitVec.ofInt 8 (sumNow s), dir := .none }

/-- A sum up to the threshold is far from the ends of the accumulator's range (R22, R24). -/
theorem sumNow_in_range (h : (sumNow s).natAbs ≤ threshold s.sens) : -128 ≤ sumNow s ∧ sumNow s ≤ 127 := by
  have hb := (threshold_bounds s.sens).2
  omega

theorem decoderStep_event (h : (sumNow s).natAbs = threshold s.sens) : decoderStep s = .next (afterEvent s) := by
  have hr := sumNow_in_range h.le
  rw [decoderStep_in_range s hr, commitUpdate_in_range s hr, if_pos h]
  rfl

theorem decoderStep_quiet (hr : -128 ≤ sumNow s ∧ sumNow s ≤ 127) (h : (sumNow s).natAbs ≠ threshold s.sens) :
    decoderStep s = .next (afterQuiet s) := by
  rw [decoderStep_in_range s hr, commitUpdate_in_range s hr, if_neg h]
  rfl

theorem exec_update_of_live (hl : s.live = true) : exec .update s = decoderStep s := whenLive_of_live hl

theorem exec_update_event (hl : s.live = true) (h : (sumNow s).natAbs = threshold s.sens) :
    exec .update s = .next (afterEvent s) := by
  rw [exec_update_of_live hl, decoderStep_event h]

theorem exec_update_below_threshold (hl : s.live = true) (h : (sumNow s).natAbs < threshold s.sens) :
    exec .update s = .next (afterQuiet s) := by
  rw [exec_update_of_live hl, decoderStep_quiet (sumNow_in_range h.le) h.ne]

/-- The event's direction is never None (R105). -/
theorem afterEvent_dir_ne_none : (afterEvent s).dir ≠ .none := by
  unfold afterEvent
  split <;> simp

/-- R104: an UPDATE leaves the sample it took as the previous sample of the next one. -/
theorem previousSample_afterQuiet (s : State) : previousSample (afterQuiet s) = sampleOf s.pins :=
  BitVec.extractLsb'_append_eq_right

theorem toInt_acc_afterQuiet (hr : -128 ≤ sumNow s ∧ sumNow s ≤ 127) :
    (afterQuiet s).acc.toInt = sumNow s :=
  toInt_wrap8 hr.1 hr.2

end Sys2Proof.Machine

/-! PROOF of O25: a run of UPDATEs counts net valid steps (spec/40_decoder.md R109 (c)). -/

namespace Sys2Proof.Machine

/-- A run of UPDATEs over the pin readings `ps` from `s` to `t`, none of them an event: what `t` holds. `net` says at
once that ACC is the net count so far, and that counting goes on from `t` as it would have from `s`. -/
structure CountedQuietly (s : State) (ps : List Pins) (t : State) : Prop where
  live : t.live = true
  sens : t.sens = s.sens
  net : ∀ qs, t.acc.toInt + netSteps (previousSample t) qs = s.acc.toInt + netSteps (previousSample s) (ps ++ qs)
  dir : t.dir = if ps = [] then s.dir else .none

variable {s t : State} {p : Pins} {ps : List Pins}

/-- ACC holds the net count. -/
theorem CountedQuietly.acc (h : CountedQuietly s ps t) :
    t.acc.toInt = s.acc.toInt + netSteps (previousSample s) ps := by
  simpa [netSteps] using h.net []

/-- One more pin reading adds its step to the count. -/
theorem CountedQuietly.sumNow_eq (h : CountedQuietly s ps t) (p : Pins) :
    sumNow { t with pins := p } = s.acc.toInt + netSteps (previousSample s) (ps ++ [p]) := by
  simpa [netSteps, sumNow, previousSample] using h.net [p]

theorem CountedQuietly.nil (hl : s.live = true) : CountedQuietly s [] s :=
  ⟨hl, rfl, fun _ => rfl, rfl⟩

/-- Counting from the state a quiet UPDATE left is counting with that UPDATE's reading put in front. -/
theorem netSteps_afterQuiet (hr : -128 ≤ sumNow { s with pins := p } ∧ sumNow { s with pins := p } ≤ 127)
    (qs : List Pins) :
    (afterQuiet { s with pins := p }).acc.toInt +
        netSteps (previousSample (afterQuiet { s with pins := p })) qs =
      s.acc.toInt + netSteps (previousSample s) (p :: qs) := by
  rw [previousSample_afterQuiet, toInt_acc_afterQuiet hr]
  simp only [netSteps, sumNow, previousSample]
  omega

/-- A run from the state a quiet UPDATE left, with that UPDATE put in front. -/
theorem CountedQuietly.cons (hr : -128 ≤ sumNow { s with pins := p } ∧ sumNow { s with pins := p } ≤ 127)
    (h : CountedQuietly (afterQuiet { s with pins := p }) ps t) : CountedQuietly s (p :: ps) t where
  live := h.live
  sens := h.sens
  net qs := (h.net qs).trans (netSteps_afterQuiet hr (ps ++ qs))
  dir := h.dir.trans (ite_self _)

/-- R109 (c), from any ACC: while the count stays below the magnitude, every UPDATE runs and none is an event. -/
theorem updates_countedQuietly : ∀ (ps : List Pins) (s : State), s.live = true →
    (∀ k ≤ ps.length, (s.acc.toInt + netSteps (previousSample s) (ps.take k)).natAbs < threshold s.sens) →
    ∃ t, updates ps s = .next t ∧ CountedQuietly s ps t
  | [], s, hl, _ => ⟨s, rfl, .nil hl⟩
  | p :: ps, s, hl, hb => by
    have hsum : sumNow { s with pins := p } = s.acc.toInt + netSteps (previousSample s) [p] :=
      (CountedQuietly.nil hl).sumNow_eq p
    have hlt : (sumNow { s with pins := p }).natAbs < threshold s.sens := hsum ▸ hb 1 (by simp)
    have hr : -128 ≤ sumNow { s with pins := p } ∧ sumNow { s with pins := p } ≤ 127 := sumNow_in_range hlt.le
    obtain ⟨t, ht, hq⟩ := updates_countedQuietly ps (afterQuiet { s with pins := p }) hl fun k hk => by
      rw [netSteps_afterQuiet hr]
      exact hb (k + 1) (Nat.succ_le_succ hk)
    have hu : exec .update { s with pins := p } = .next (afterQuiet { s with pins := p }) :=
      exec_update_below_threshold hl hlt
    exact ⟨t, by rw [updates, hu, andThen_next, ht], hq.cons hr⟩

/-- Settles O25, by induction on the pin readings: the run so far has counted quietly, and one more UPDATE sums to the
net count with its reading. -/
theorem thresholdCountsNetValidSteps : Obligations.ThresholdCountsNetValidSteps := by
  unfold Obligations.ThresholdCountsNetValidSteps
  intro s ps hl ha hb
  have h0 : s.acc.toInt = 0 := by rw [ha]; rfl
  obtain ⟨t, ht, hq⟩ := updates_countedQuietly ps s hl (by simpa only [h0, zero_add] using hb)
  refine ⟨t, ht, by simpa only [h0, zero_add] using hq.acc, fun hne => hq.dir.trans (if_neg hne), fun p hp => ?_⟩
  have hsum : sumNow { t with pins := p } = netSteps (previousSample s) (ps ++ [p]) := by
    simpa only [h0, zero_add] using hq.sumNow_eq p
  refine ⟨_, exec_update_event hq.live (hsum ▸ hq.sens ▸ hp), rfl, ?_⟩
  rw [← hsum]
  rfl

end Sys2Proof.Machine

/-! PROOF of O33: an illegal factor gives VEL the free value (spec/41_velocity.md R140). -/

namespace Sys2Proof.Machine

variable {s : State} {t : Millis}

theorem exec_decay (hv : s.cfg.hasVelocity = true) (hl : s.live = true) :
    exec .decay s = .next (s.writeVel (decayedVel s)) :=
  (whenVelocity_of_present hv).trans (whenLive_of_live hl)

theorem exec_tupdate (hv : s.cfg.hasVelocity = true) (hl : s.live = true) (t : Millis) :
    exec (.tupdate t) s = andThen (decoderStep s) (velocityStep t) :=
  (whenVelocity_of_present hv).trans (whenLive_of_live hl)

theorem decayedVel_of_illegal (h : legalFactor s.decf = false) : decayedVel s = s.draw := by
  simp [decayedVel, h]

theorem incrementedVel_of_illegal (h : legalFactor s.incf = false) : incrementedVel s = s.draw := by
  simp [incrementedVel, h]

/-- R136, R138: the elapsed time written out. -/
theorem incrementDue_iff : incrementDue t s = true ↔
    (t.toNat + 2 ^ 64 - s.tlast.toNat) % 2 ^ 64 < s.win.toNat ∧ flt s.vel 0x3F800000 = true := by
  have he : (t - s.tlast).toNat = (t.toNat + 2 ^ 64 - s.tlast.toNat) % 2 ^ 64 := by bv_omega
  rw [incrementDue, Bool.and_eq_true, decide_eq_true_iff, he]
  rfl

/-- R136: an event inside the window increments VEL, unless R174's TimeBackwards stops it. -/
theorem velocityStep_of_due (hd : s.dir ≠ .none) (hs : s.cfg.strict = false ∨ s.tlast.toNat ≤ t.toNat)
    (hi : incrementDue t s = true) : velocityStep t s = .next (s.writeVel (incrementedVel s)) := by
  rcases velocityStep_cases t s with ⟨hn, _⟩ | ⟨_, hstrict, hlt, _⟩ | ⟨_, _, _, h⟩ | ⟨_, _, hnot, _⟩
  · exact absurd hn hd
  · rcases hs with hs | hs
    · simp [hs] at hstrict
    · omega
  · exact h
  · simp [hi] at hnot

/-- R134, R136: a TUPDATE with an event and an increment due. -/
theorem exec_tupdate_of_due (hv : s.cfg.hasVelocity = true) (hl : s.live = true)
    (he : (sumNow s).natAbs = threshold s.sens) (hs : s.cfg.strict = false ∨ s.tlast.toNat ≤ t.toNat)
    (hi : incrementDue t s = true) :
    exec (.tupdate t) s = .next ((afterEvent s).writeVel (incrementedVel s)) := by
  rw [exec_tupdate hv hl, decoderStep_event he, andThen_next]
  exact velocityStep_of_due afterEvent_dir_ne_none hs hi

/-- Settles O33: both commands write the value they compute, which for an illegal factor is the draw. -/
theorem illegalFactorGivesAFreeValue : Obligations.IllegalFactorGivesAFreeValue := by
  unfold Obligations.IllegalFactorGivesAFreeValue
  intro s t hv hl
  refine ⟨fun hf => ?_, fun hf he hs hwin hvel => ?_⟩
  · rw [exec_decay hv hl, decayedVel_of_illegal hf]
    rfl
  · rw [exec_tupdate_of_due hv hl he hs (incrementDue_iff.2 ⟨hwin, hvel⟩), incrementedVel_of_illegal hf]
    rfl

end Sys2Proof.Machine

/-! PROOF of O49: a QDEC without unit VT (spec/00_scope.md R3, spec/10_state.md R20). -/

namespace Sys2Proof.Machine

variable {s t : State} {i : Instr}

/-- R20: the five elements of unit VT are the same in both states. -/
structure SameVelocityElements (s t : State) : Prop where
  vel : t.vel = s.vel
  incf : t.incf = s.incf
  decf : t.decf = s.decf
  win : t.win = s.win
  tlast : t.tlast = s.tlast

theorem hardwareReset_sameVelocityElements (hv : s.cfg.hasVelocity = false) (rest : List Input) :
    SameVelocityElements s (s.hardwareReset rest) := by
  constructor <;> simp [hv]

/-- R82 (2): the unit is the first thing every VT command asks for. -/
theorem exec_velocity_of_absent (hv : s.cfg.hasVelocity = false) (hi : i.needsVelocity = true) :
    exec i s = .refused .noVelocityUnit := by
  cases i with
  | construct | update | setsens | getdir | borrowpins | release => cases hi
  | borrowinner | tupdate | decay | setinc | setdec | setwin | getvel => exact whenVelocity_of_absent hv

/-- Without the unit, no command that answers a next state writes an element of unit VT: a VT command answers none,
CONSTRUCT finds no element to write, and the other five commands of unit DEC have none to write. -/
theorem exec_sameVelocityElements (hv : s.cfg.hasVelocity = false) (h : exec i s = .next t) :
    SameVelocityElements s t := by
  cases i with
  | construct =>
    cases (whenNotLive_next_iff.1 h).2
    constructor <;> simp [hv]
  | update =>
    rw [decoderStep_next (whenLive_next_iff.1 h).2]
    exact ⟨rfl, rfl, rfl, rfl, rfl⟩
  | setsens mag =>
    rw [exec, execSetsens] at h
    split at h
    · cases (whenLive_next_iff.1 h).2
      exact ⟨rfl, rfl, rfl, rfl, rfl⟩
    · cases h
  | getdir | borrowpins | release =>
    cases (whenLive_next_iff.1 h).2
    exact ⟨rfl, rfl, rfl, rfl, rfl⟩
  | borrowinner | tupdate | decay | setinc | setdec | setwin | getvel =>
    rw [exec_velocity_of_absent hv rfl] at h
    cases h

/-- Without the unit, no step touches its elements, a wait and a reset included. -/
theorem step_sameVelocityElements (hv : s.cfg.hasVelocity = false) (h : step s = .next t) :
    SameVelocityElements s t := by
  rcases step_next_cases h with ⟨_, rfl⟩ | ⟨rest, _, rfl⟩ | ⟨w, p, rest, i, _, _, h⟩
  · exact ⟨rfl, rfl, rfl, rfl, rfl⟩
  · exact hardwareReset_sameVelocityElements hv rest
  · obtain ⟨hvel, hincf, hdecf, hwin, htlast⟩ := exec_sameVelocityElements (s := s.present p rest) hv h
    exact ⟨hvel, hincf, hdecf, hwin, htlast⟩

/-- Settles O49: the acceptance check refuses the seven commands, and every step that goes on keeps the five elements,
which stand in the state although the unit is absent (log entry 3). -/
theorem withoutTheVelocityUnit : Obligations.WithoutTheVelocityUnit := by
  unfold Obligations.WithoutTheVelocityUnit
  intro s hv
  refine ⟨fun i hi => exec_velocity_of_absent hv hi, fun t h => ?_⟩
  obtain ⟨hvel, hincf, hdecf, hwin, htlast⟩ := step_sameVelocityElements hv h
  exact ⟨hvel, hincf, hdecf, hwin, htlast⟩

end Sys2Proof.Machine

/-! SUPPORT. What each command can do, said once: the next state of every command that answers one, and the only ways
to a fault (spec/30_encoding.md R82, spec/60_exceptions.md R174). -/

namespace Sys2Proof.Machine

variable {s t u : State} {i : Instr} {n : Millis} {r : Fault}

/-- The next state of each command that the acceptance check lets through. -/
inductive Executes : Instr → State → State → Prop where
  | construct (s : State) : Executes .construct s (s.initDecoder.writeLive true).initVelocity
  | update {s t : State} : decoderStep s = .next t → Executes .update s t
  | setsens {mag : BitVec 3} {m : Sensitivity} (s : State) :
      sensitivityOf mag = some m → Executes (.setsens mag) s (s.writeSens m)
  | getdir (s : State) : Executes .getdir s (s.respond (s.dir.code.setWidth 64))
  | borrowpins (s : State) : Executes .borrowpins s s
  | release (s : State) : Executes .release s (s.writeLive false)
  | borrowinner (s : State) : Executes .borrowinner s s
  | tupdate {s u t : State} {n : Millis} :
      decoderStep s = .next u → velocityStep n u = .next t → Executes (.tupdate n) s t
  | decay (s : State) : Executes .decay s (s.writeVel (decayedVel s))
  | setinc (f : F32) (s : State) : Executes (.setinc f) s (s.writeIncf f)
  | setdec (f : F32) (s : State) : Executes (.setdec f) s (s.writeDecf f)
  | setwin (ms : Millis) (s : State) : Executes (.setwin ms) s (s.writeWin ms)
  | getvel (s : State) : Executes .getvel s (s.respond (s.vel.setWidth 64))

/-- A command that answers a next state was let through, by the guards its arm asks. -/
theorem executes_of_exec_next (h : exec i s = .next t) : Executes i s t := by
  cases i with
  | construct => cases (whenNotLive_next_iff.1 h).2; exact .construct s
  | update => exact .update (whenLive_next_iff.1 h).2
  | setsens mag =>
    rw [exec, execSetsens] at h
    split at h
    · next hm => cases (whenLive_next_iff.1 h).2; exact .setsens s hm
    · cases h
  | tupdate n =>
    obtain ⟨u, hu, ht⟩ := andThen_next_iff.1 (whenLive_next_iff.1 (whenVelocity_next_iff.1 h).2).2
    exact .tupdate hu ht
  | getdir | borrowpins | release => cases (whenLive_next_iff.1 h).2; constructor
  | borrowinner | decay | setinc | setdec | setwin | getvel =>
    cases (whenLive_next_iff.1 (whenVelocity_next_iff.1 h).2).2; constructor

/-- R103: the decoder step writes HIST, ACC and DIR and nothing else. -/
theorem decoderStep_frame (h : decoderStep s = .next t) :
    t = { s with hist := t.hist, acc := t.acc, dir := t.dir } := by
  rw [decoderStep_next h]
  rfl

/-- R136, R137: what the velocity step leaves: TLAST written, VEL incremented, or nothing changed. -/
theorem velocityStep_next_cases (h : velocityStep n s = .next t) :
    t = s.writeTlast n ∨ t = s.writeVel (incrementedVel s) ∨ t = s := by
  rcases velocityStep_cases n s with ⟨_, h'⟩ | ⟨_, _, _, h'⟩ | ⟨_, _, _, h'⟩ | ⟨_, _, _, h'⟩ <;> rw [h'] at h <;>
    cases h
  · exact .inl rfl
  · exact .inr (.inl rfl)
  · exact .inr (.inr rfl)

/-- R136, R137: the velocity step writes VEL and TLAST (and moves the model's draw counter) and nothing else. -/
theorem velocityStep_frame (h : velocityStep n s = .next t) :
    t = { s with vel := t.vel, tlast := t.tlast, draws := t.draws } := by
  rcases velocityStep_next_cases h with rfl | rfl | rfl <;> rfl

/-- R174: a fault needs a strict configuration, and is the overflow of an UPDATE or TUPDATE or the backward timestamp
of a TUPDATE. -/
theorem exec_fault_cases (h : exec i s = .fault r) :
    s.cfg.strict = true ∧
      ((i = .update ∨ ∃ n, i = .tupdate n) ∧ accOverflows (newSum s) = true ∨
        ∃ n, i = .tupdate n ∧ n.toNat < s.tlast.toNat) := by
  have hdec {r : Fault} (hf : decoderStep s = .fault r) : s.cfg.strict = true ∧ accOverflows (newSum s) = true := by
    rcases decoderStep_cases s with ⟨hs, ho, _⟩ | ⟨_, hn⟩
    · exact ⟨hs, ho⟩
    · simp [hn] at hf
  cases i with
  | construct => cases (whenNotLive_fault_iff.1 h).2
  | update =>
    obtain ⟨hs, ho⟩ := hdec (whenLive_fault_iff.1 h).2
    exact ⟨hs, .inl ⟨.inl rfl, ho⟩⟩
  | tupdate n =>
    rcases andThen_fault_iff.1 (whenLive_fault_iff.1 (whenVelocity_fault_iff.1 h).2).2 with hf | ⟨u, hu, hf⟩
    · obtain ⟨hs, ho⟩ := hdec hf
      exact ⟨hs, .inl ⟨.inr ⟨n, rfl⟩, ho⟩⟩
    · rw [decoderStep_frame hu] at hf
      rcases velocityStep_cases n { s with hist := u.hist, acc := u.acc, dir := u.dir } with
        ⟨_, hn⟩ | ⟨_, hs, hlt, _⟩ | ⟨_, _, _, hn⟩ | ⟨_, _, _, hn⟩
      · simp [hn] at hf
      · exact ⟨hs, .inr ⟨n, rfl, hlt⟩⟩
      · simp [hn] at hf
      · simp [hn] at hf
  | setsens mag =>
    rw [exec, execSetsens] at h
    split at h
    · cases (whenLive_fault_iff.1 h).2
    · cases h
  | getdir | borrowpins | release => cases (whenLive_fault_iff.1 h).2
  | borrowinner | decay | setinc | setdec | setwin | getvel =>
    cases (whenLive_fault_iff.1 (whenVelocity_fault_iff.1 h).2).2

theorem step_command_ok {w : CommandWord} {p : Pins} {rest : List Input} (h : s.inputs = .command w p :: rest)
    (hd : decode w = .ok i) : step s = exec i (s.present p rest) := by
  simp [step, h, hd]

/-- A step faults only by the command it runs. -/
theorem step_fault_cases (h : step s = .fault r) :
    ∃ w p rest i, s.inputs = .command w p :: rest ∧ decode w = .ok i ∧ exec i (s.present p rest) = .fault r := by
  match hin : s.inputs with
  | [] => simp [step_nil hin] at h
  | .reset :: rest => simp [step_reset hin] at h
  | .command w p :: rest =>
    cases hd : decode w with
    | ok i => exact ⟨w, p, rest, i, rfl, hd, step_command_ok hin hd ▸ h⟩
    | error e => simp [step_command_error hin hd] at h

end Sys2Proof.Machine

/-! PROOF of O52: the accumulator stays below the sensitivity magnitude (spec/10_state.md R37). -/

namespace Sys2Proof.Machine

variable {s t : State} {i : Instr} {n : Millis}

theorem accBound_iff : accBound s = true ↔ s.acc.toInt.natAbs < threshold s.sens := decide_eq_true_iff

theorem accBound_of_acc_eq_zero (h : s.acc = 0) : accBound s = true := by
  have hb := (threshold_bounds s.sens).1
  rw [accBound_iff, h]
  change 0 < threshold s.sens
  omega

/-- R53: one transition moves the sum by at most 1, so within the bound it reaches at most the threshold. -/
theorem natAbs_sumNow_le (h : accBound s = true) : (sumNow s).natAbs ≤ threshold s.sens := by
  rw [accBound_iff] at h
  have hc := stepValue_cases (previousSample s) (sampleOf s.pins)
  rw [sumNow]
  omega

/-- Within the bound the decoder step is an event or a quiet call in either configuration, never an overflow. -/
theorem decoderStep_of_accBound (h : accBound s = true) :
    (sumNow s).natAbs = threshold s.sens ∧ decoderStep s = .next (afterEvent s) ∨
      (sumNow s).natAbs < threshold s.sens ∧ decoderStep s = .next (afterQuiet s) := by
  have hle := natAbs_sumNow_le h
  rcases hle.eq_or_lt with he | hlt
  · exact .inl ⟨he, decoderStep_event he⟩
  · exact .inr ⟨hlt, decoderStep_quiet (sumNow_in_range hle) hlt.ne⟩

/-- R103, R105: an event clears ACC, and a quiet call leaves the sum, which is below the threshold. -/
theorem accBound_decoderStep (hb : accBound s = true) (h : decoderStep s = .next t) : accBound t = true := by
  rcases decoderStep_of_accBound hb with ⟨_, h'⟩ | ⟨hlt, h'⟩ <;> rw [h'] at h <;> cases h
  · exact accBound_of_acc_eq_zero rfl
  · rw [accBound_iff, toInt_acc_afterQuiet (sumNow_in_range hlt.le)]
    exact hlt

theorem accBound_velocityStep (h : velocityStep n s = .next t) : accBound t = accBound s := by
  rw [velocityStep_frame h]
  rfl

/-- R25, R81: SETSENS selects the sensitivity whose magnitude is its operand. -/
theorem threshold_sensitivityOf {mag : BitVec 3} {m : Sensitivity} (h : sensitivityOf mag = some m) :
    threshold m = mag.toNat := by
  revert mag m
  decide

/-- R37: the bound is kept by every command, under R208's proviso for SETSENS. -/
theorem accBound_exec (hb : accBound s = true) (hsens : ∀ mag, i = .setsens mag → s.acc.toInt.natAbs < mag.toNat)
    (h : exec i s = .next t) : accBound t = true := by
  cases executes_of_exec_next h with
  | construct => exact accBound_of_acc_eq_zero (by simp)
  | update hd => exact accBound_decoderStep hb hd
  | tupdate hd hv => rw [accBound_velocityStep hv]; exact accBound_decoderStep hb hd
  | @setsens mag m _ hm => exact accBound_iff.2 (threshold_sensitivityOf hm ▸ hsens mag rfl)
  | getdir | borrowpins | release | borrowinner | decay | setinc | setdec | setwin | getvel => exact hb

/-- Settles O52: a wait keeps ACC and SENS, a reset clears ACC, and every command keeps the bound. -/
theorem accumulatorStaysBelowSensitivity : Obligations.AccumulatorStaysBelowSensitivity := by
  unfold Obligations.AccumulatorStaysBelowSensitivity
  intro s t hb hsens h
  rcases step_next_cases h with ⟨_, rfl⟩ | ⟨rest, _, rfl⟩ | ⟨w, p, rest, i, hin, hd, h⟩
  · exact hb
  · exact accBound_of_acc_eq_zero (by simp)
  · refine accBound_exec (s := s.present p rest) hb (fun mag hi => ?_) h
    exact hsens mag (hi ▸ nextCommand_of_decode hin hd)

end Sys2Proof.Machine

/-! SUPPORT. Sums and differences of nonnegative binary32 numbers, clamped as VEL is (spec/41_velocity.md R131 to R134,
R139): the pattern of the result as a rounded magnitude. -/

namespace Sys2Proof.Machine

variable {x y r : F32}

theorem fVal_of_fSign_false (h : fSign x = false) : fVal x = fMag x := by simp [fVal, h]

/-- A value that is not below zero is its magnitude, negative zero included. -/
theorem fVal_of_nonneg (h : 0 ≤ fVal x) : fVal x = fMag x := by
  unfold fVal at h ⊢
  split at h <;> simp_all

theorem fSign_eq_false_iff : fSign x = false ↔ x.toNat < 2 ^ 31 := by
  rw [fSign, msb_eq_decide_le, decide_eq_false_iff_not, Nat.not_le]

/-- R131: below 0.0 is a number of negative value. -/
theorem flt_f0_iff : flt x f0 = true ↔ isNaN x = false ∧ fVal x < 0 := by
  simp [flt, show isNaN f0 = false by decide, show fVal f0 = 0 by decide]

theorem isNaN_of_le (h : x.toNat ≤ 0x7F800000) : isNaN x = false := by
  rw [isNaN_eq_false_iff]
  omega

/-- R131: patterns up to plus infinity are ordered as numbers. -/
theorem flt_iff_of_le (hx : x.toNat ≤ 0x7F800000) (hy : y.toNat ≤ 0x7F800000) :
    flt x y = true ↔ x.toNat < y.toNat := by
  have hnx := isNaN_of_le hx
  have hny := isNaN_of_le hy
  have hlt := fMag_lt_iff x y hnx hny
  rw [Nat.mod_eq_of_lt (by omega), Nat.mod_eq_of_lt (by omega)] at hlt
  simp [flt, hnx, hny, fVal_of_fSign_false (fSign_of_le x hx), fVal_of_fSign_false (fSign_of_le y hy), hlt]

/-- The only pattern with the sign bit whose value is not below zero is negative zero. -/
theorem fSign_eq_false_or_eq_negZero (h : 0 ≤ fVal x) : fSign x = false ∨ x = 0x80000000 := by
  by_cases hs : fSign x = false
  · exact .inl hs
  · have hval : fVal x = -fMag x := by simp [fVal, hs]
    have hmod := (fMag_eq_zero x).1 (by omega)
    have hge := mt fSign_eq_false_iff.2 hs
    have hlt := x.isLt
    exact .inr (BitVec.eq_of_toNat_eq (show x.toNat = 0x80000000 by omega))

/-- R38: the bound on VEL as a range of patterns. -/
theorem velBound_iff : velBound x = true ↔ x.toNat ≤ 0x3F800000 := by
  constructor
  · intro h
    simp only [velBound, Bool.and_eq_true, Bool.not_eq_true', bne_iff_ne] at h
    obtain ⟨⟨⟨hn, hz⟩, hlo⟩, hhi⟩ := h
    have hnonneg : 0 ≤ fVal x := by
      by_contra hlt
      exact Bool.eq_false_iff.1 hlo (flt_f0_iff.2 ⟨hn, by omega⟩)
    have hpos := fSign_eq_false_iff.1 ((fSign_eq_false_or_eq_negZero hnonneg).resolve_right hz)
    have hle : x.toNat ≤ 0x7F800000 := by
      have hmod := (isNaN_eq_false_iff x).1 hn
      omega
    have hge := (flt_iff_of_le (x := f1) (by decide) hle).not.1 (by simpa [fgt] using hhi)
    exact Nat.le_of_not_lt hge
  · intro h
    have hx : x.toNat ≤ 0x7F800000 := by omega
    have hlo : ¬ flt x f0 = true := by
      rw [flt_iff_of_le hx (by decide)]
      exact Nat.not_lt_zero _
    have hhi : ¬ fgt x f1 = true := by
      rw [fgt, flt_iff_of_le (by decide) hx]
      exact Nat.not_lt_of_le h
    have hz : x ≠ 0x80000000#32 := by
      rintro rfl
      simp at h
    simp [velBound, isNaN_of_le hx, hz, hlo, hhi]

/-- R132: a legal factor is a number that is not negative. -/
theorem legalFactor_iff : legalFactor x = true ↔ isNaN x = false ∧ 0 ≤ fVal x := by
  rw [legalFactor, Bool.and_eq_true, Bool.not_eq_true', Bool.not_eq_true']
  refine and_congr_right fun hn => ?_
  rw [Bool.eq_false_iff, Ne, flt_f0_iff, and_iff_right hn, Int.not_lt]

/-- The only infinite legal factor is plus infinity. -/
theorem eq_fInf_of_legalFactor (hf : legalFactor x = true) (hi : isInf x = true) : x = fInf := by
  have hmod := (isInf_eq_true_iff x).1 hi
  rcases fSign_eq_false_or_eq_negZero (legalFactor_iff.1 hf).2 with hs | rfl
  · have hlt := fSign_eq_false_iff.1 hs
    exact BitVec.eq_of_toNat_eq (show x.toNat = 0x7F800000 by omega)
  · simp at hmod

/-- R131: a finite sum is the exact one, rounded; the exact zero is positive when an operand is. -/
theorem fadd_finite (hx : x.toNat < 0x7F800000) (hn : isNaN y = false) (hi : isInf y = false) :
    fadd r x y = roundUnits (fVal x + fVal y) := by
  have hix : isInf x = false := by
    rw [Bool.eq_false_iff, Ne, isInf_eq_true_iff]
    omega
  rw [fadd, isNaN_of_le hx.le, hn, hix, hi, fSign_of_le x hx.le]
  simp only [Bool.or_self, Bool.false_and, Bool.false_eq_true, if_false]
  split
  · next h0 => rw [h0]; decide
  · rfl

/-- R131: an infinite second operand is the sum with a finite first one. -/
theorem fadd_of_isInf_right (hx : x.toNat < 0x7F800000) (hn : isNaN y = false) (hi : isInf y = true) :
    fadd r x y = y := by
  have hix : isInf x = false := by
    rw [Bool.eq_false_iff, Ne, isInf_eq_true_iff]
    omega
  simp [fadd, isNaN_of_le hx.le, hn, hix, hi]

theorem fMag_lt_fMag_fInf (hx : x.toNat < 0x7F800000) : fMag x < fMag fInf := by
  rw [fMag_lt_iff x fInf (isNaN_of_le hx.le) (by decide), Nat.mod_eq_of_lt (by omega)]
  exact hx

theorem roundMag_zero : roundMag 0 = 0 := roundMag_of_lt 0 (by decide)

/-- R133: the ceiling on a number that is not negative. -/
theorem toNat_clampHi (hx : x.toNat ≤ 0x7F800000) : (clampHi x).toNat = min x.toNat 0x3F800000 := by
  have hgt : fgt x f1 = true ↔ 0x3F800000 < x.toNat := flt_iff_of_le (by decide) hx
  unfold clampHi
  split
  · next h => rw [Nat.min_eq_right (hgt.1 h).le]; rfl
  · next h => rw [Nat.min_eq_left (Nat.le_of_not_lt (mt hgt.2 h))]

/-- R133: the floor on a rounded number: a negative one becomes 0.0, any other stays. -/
theorem toNat_clampLo_roundUnits (i : Int) : (clampLo (roundUnits i)).toNat = roundMag i.toNat := by
  by_cases hi : i < 0
  · have hmag : fMag (BitVec.ofNat 32 (roundMag i.natAbs)) ≠ 0 := by
      have hpos := roundMag_mono (show 1 ≤ i.natAbs by omega)
      have hle := roundMag_le_inf i.natAbs
      rw [roundMag_of_lt 1 (by decide)] at hpos
      rw [Ne, fMag_eq_zero, toNat_pattern _ hle]
      omega
    have hneg : fVal (roundUnits i) < 0 := by
      rw [fVal_roundUnits, if_pos hi]
      omega
    have hlt : flt (roundUnits i) f0 = true := flt_f0_iff.2 ⟨isNaN_roundUnits i, hneg⟩
    rw [clampLo, if_pos hlt, Int.toNat_of_nonpos hi.le, roundMag_zero]
    rfl
  · have hval := toNat_roundUnits i
    rw [if_neg hi, Nat.zero_add] at hval
    have hge : ¬ flt (roundUnits i) f0 = true := by
      rw [flt_iff_of_le (hval ▸ roundMag_le_inf _) (by decide)]
      exact Nat.not_lt_zero _
    rw [clampLo, if_neg hge, hval]
    congr 1
    omega

/-- R134, R136: the increment by a legal factor, plus infinity and both zeros included. -/
theorem toNat_clampHi_fadd (hx : x.toNat < 0x7F800000) (hy : legalFactor y = true) :
    (clampHi (fadd r x y)).toNat = min (roundMag (fMag x + fMag y)) 0x3F800000 := by
  obtain ⟨hn, hpos⟩ := legalFactor_iff.1 hy
  have hsum : (fadd r x y).toNat = roundMag (fMag x + fMag y) := by
    cases hi : isInf y with
    | true =>
      have hinf : roundMag (fMag fInf) = 0x7F800000 := roundMag_fMag fInf (by decide)
      have hge := roundMag_mono (Nat.le_add_left (fMag fInf) (fMag x))
      have hle := roundMag_le_inf (fMag x + fMag fInf)
      rw [fadd_of_isInf_right hx hn hi, eq_fInf_of_legalFactor hy hi]
      change 0x7F800000 = _
      omega
    | false =>
      rw [fadd_finite hx hn hi, fVal_of_fSign_false (fSign_of_le x hx.le), fVal_of_nonneg hpos, toNat_roundUnits,
        if_neg (by omega), Nat.zero_add]
      congr 1
  rw [toNat_clampHi (hsum ▸ roundMag_le_inf _), hsum]

/-- R139: the decay by a legal factor, plus infinity and both zeros included; the difference of magnitudes stops at 0. -/
theorem toNat_clampLo_fsub (hx : x.toNat < 0x7F800000) (hy : legalFactor y = true) :
    (clampLo (fsub r x y)).toNat = roundMag (fMag x - fMag y) := by
  obtain ⟨hn, hpos⟩ := legalFactor_iff.1 hy
  have hnn : isNaN (fneg y) = false := (isNaN_fneg y).trans hn
  cases hi : isInf y with
  | true =>
    have hlt := fMag_lt_fMag_fInf hx
    rw [fsub, fadd_of_isInf_right hx hnn ((isInf_fneg y).trans hi), eq_fInf_of_legalFactor hy hi,
      Nat.sub_eq_zero_of_le hlt.le, roundMag_zero]
    decide
  | false =>
    rw [fsub, fadd_finite hx hnn ((isInf_fneg y).trans hi), fVal_fneg, fVal_of_fSign_false (fSign_of_le x hx.le),
      fVal_of_nonneg hpos, toNat_clampLo_roundUnits]
    congr 1
    omega

/-- A pattern of a number that is not negative rounds to itself. -/
theorem roundMag_fMag_of_lt (hx : x.toNat < 0x7F800000) : roundMag (fMag x) = x.toNat := by
  rw [roundMag_fMag x (isNaN_of_le hx.le), Nat.mod_eq_of_lt (by omega)]

end Sys2Proof.Machine

/-! PROOF of O53: VEL stays a number in [0.0, 1.0] (spec/10_state.md R38). -/

namespace Sys2Proof.Machine

variable {s t : State} {i : Instr} {n : Millis}

theorem vel_finite (h : velBound s.vel = true) : s.vel.toNat < 0x7F800000 := by
  rw [velBound_iff] at h
  omega

/-- R134: the increment with a legal INCF. -/
theorem toNat_incrementedVel (hv : velBound s.vel = true) (hf : legalFactor s.incf = true) :
    (incrementedVel s).toNat = min (roundMag (fMag s.vel + fMag s.incf)) 0x3F800000 := by
  rw [incrementedVel, if_pos hf, toNat_clampHi_fadd (vel_finite hv) hf]

/-- R139: the decay with a legal DECF. -/
theorem toNat_decayedVel (hv : velBound s.vel = true) (hf : legalFactor s.decf = true) :
    (decayedVel s).toNat = roundMag (fMag s.vel - fMag s.decf) := by
  rw [decayedVel, if_pos hf, toNat_clampLo_fsub (vel_finite hv) hf]

theorem velBound_incrementedVel (hv : velBound s.vel = true) (hf : legalFactor s.incf = true) :
    velBound (incrementedVel s) = true := by
  rw [velBound_iff, toNat_incrementedVel hv hf]
  exact Nat.min_le_right _ _

/-- R141 (e): rounding is monotone, so a decay never raises the pattern. -/
theorem decayedVel_le (hv : velBound s.vel = true) (hf : legalFactor s.decf = true) :
    (decayedVel s).toNat ≤ s.vel.toNat := by
  rw [toNat_decayedVel hv hf, ← roundMag_fMag_of_lt (vel_finite hv)]
  exact roundMag_mono (Nat.sub_le _ _)

theorem velBound_decayedVel (hv : velBound s.vel = true) (hf : legalFactor s.decf = true) :
    velBound (decayedVel s) = true :=
  velBound_iff.2 ((decayedVel_le hv hf).trans (velBound_iff.1 hv))

theorem velBound_velocityStep (hv : velBound s.vel = true) (hf : legalFactor s.incf = true)
    (h : velocityStep n s = .next t) : velBound t.vel = true := by
  rcases velocityStep_next_cases h with rfl | rfl | rfl
  · exact hv
  · exact velBound_incrementedVel hv hf
  · exact hv

/-- R40: CONSTRUCT and reset put VEL at 0.0, or leave it where unit VT is absent. -/
theorem velBound_initVelocity (hv : velBound s.vel = true) : velBound s.initVelocity.vel = true := by
  rw [State.initVelocity_vel]
  split
  · decide
  · exact hv

/-- R38: the bound is kept by every command, under R210's provisos for TUPDATE and DECAY. -/
theorem velBound_exec (hv : velBound s.vel = true) (hinc : ∀ n, i = .tupdate n → legalFactor s.incf = true)
    (hdec : i = .decay → legalFactor s.decf = true) (h : exec i s = .next t) : velBound t.vel = true := by
  cases executes_of_exec_next h with
  | construct => exact velBound_initVelocity (s := s.initDecoder.writeLive true) hv
  | update hd => rw [decoderStep_frame hd]; exact hv
  | @tupdate _ u _ n hd hvs =>
    rw [decoderStep_frame hd] at hvs
    exact velBound_velocityStep (s := { s with hist := u.hist, acc := u.acc, dir := u.dir }) hv (hinc n rfl) hvs
  | decay => exact velBound_decayedVel hv (hdec rfl)
  | setsens | getdir | borrowpins | release | borrowinner | setinc | setdec | setwin | getvel => exact hv

/-- Settles O53: a wait keeps VEL, a reset puts it at 0.0 or leaves it, and every command keeps the bound. -/
theorem velocityStaysBetweenZeroAndOne : Obligations.VelocityStaysBetweenZeroAndOne := by
  unfold Obligations.VelocityStaysBetweenZeroAndOne
  intro s t hv hinc hdec h
  rcases step_next_cases h with ⟨_, rfl⟩ | ⟨rest, _, rfl⟩ | ⟨w, p, rest, i, hin, hd, h⟩
  · exact hv
  · exact velBound_initVelocity
      (s := ({ s with inputs := rest, rsp := none } : State).initDecoder.writeLive false) hv
  · have hnext := nextCommand_of_decode hin hd
    exact velBound_exec (s := s.present p rest) hv (fun n hi => hinc n (hi ▸ hnext)) (fun hi => hdec (hi ▸ hnext)) h

end Sys2Proof.Machine

/-! PROOF of O37, O45 and O59: the corner cases of DECAY and of an increment (spec/41_velocity.md R134, R139, R141). -/

namespace Sys2Proof.Machine

variable {s t : State} {n : Millis}

/-- R139: a DECAY that answers a next state wrote the decayed value. -/
theorem vel_of_exec_decay (h : exec .decay s = .next t) : t.vel = decayedVel s := by
  cases executes_of_exec_next h
  rfl

theorem fMag_of_zero {f : F32} (h : f = 0x00000000 ∨ f = 0x80000000) : fMag f = 0 := by
  rcases h with rfl | rfl <;> decide

/-- R139: a VEL of 0.0 is held. -/
theorem decayedVel_of_zero (hf : legalFactor s.decf = true) (h0 : s.vel = 0x00000000) : decayedVel s = 0x00000000 := by
  have hle := decayedVel_le (s := s) (by rw [h0]; decide) hf
  rw [h0] at hle
  exact BitVec.eq_of_toNat_eq (Nat.le_zero.1 hle)

/-- Settles O37: with a zero factor the magnitude subtracted is 0, with plus infinity it is above every VEL. -/
theorem decayCornerCases : Obligations.DecayCornerCases := by
  unfold Obligations.DecayCornerCases
  intro s t hv hf h
  rw [vel_of_exec_decay h]
  refine ⟨decayedVel_of_zero hf, fun hz => BitVec.eq_of_toNat_eq ?_, fun hinf => BitVec.eq_of_toNat_eq ?_⟩
  · rw [toNat_decayedVel hv hf, fMag_of_zero hz, Nat.sub_zero, roundMag_fMag_of_lt (vel_finite hv)]
  · have hlt := fMag_lt_fMag_fInf (vel_finite hv)
    rw [toNat_decayedVel hv hf, show s.decf = fInf from hinf, Nat.sub_eq_zero_of_le hlt.le, roundMag_zero]
    rfl

/-- Settles O45: the decayed pattern is at most the old one, so within the bound. -/
theorem decayNeverRaisesVelocity : Obligations.DecayNeverRaisesVelocity := by
  unfold Obligations.DecayNeverRaisesVelocity
  intro s t hv hf h
  rw [vel_of_exec_decay h]
  exact ⟨velBound_decayedVel hv hf, decayedVel_le hv hf, decayedVel_of_zero hf⟩

/-- R134: an increment by plus infinity ends at the ceiling. -/
theorem incrementedVel_of_fInf (hv : velBound s.vel = true) (hf : s.incf = fInf) : incrementedVel s = f1 := by
  have hinf : roundMag (fMag fInf) = 0x7F800000 := roundMag_fMag fInf (by decide)
  have hge := roundMag_mono (Nat.le_add_left (fMag fInf) (fMag s.vel))
  refine BitVec.eq_of_toNat_eq ?_
  rw [toNat_incrementedVel hv (hf ▸ by decide), hf, Nat.min_eq_right (by omega)]
  rfl

/-- R134: an increment by a zero of either sign leaves VEL. -/
theorem incrementedVel_of_zero (hv : velBound s.vel = true) (hf : legalFactor s.incf = true)
    (hz : s.incf = 0x00000000 ∨ s.incf = 0x80000000) : incrementedVel s = s.vel := by
  refine BitVec.eq_of_toNat_eq ?_
  rw [toNat_incrementedVel hv hf, fMag_of_zero hz, Nat.add_zero, roundMag_fMag_of_lt (vel_finite hv),
    Nat.min_eq_left (velBound_iff.1 hv)]

/-- Settles O59: the TUPDATE reaches its increment, and the incremented value is in each case as stated. -/
theorem incrementCornerCases : Obligations.IncrementCornerCases := by
  unfold Obligations.IncrementCornerCases
  intro s n hu hl he hs hwin hlt hv hf
  exact ⟨_, exec_tupdate_of_due hu hl he hs (incrementDue_iff.2 ⟨hwin, hlt⟩), velBound_incrementedVel hv hf,
    incrementedVel_of_fInf hv, incrementedVel_of_zero hv hf⟩

end Sys2Proof.Machine

/-! PROOF of O24: a step and its reverse net 0 (spec/40_decoder.md R109 (f)). -/

namespace Sys2Proof.Machine

variable {s t : State} {p q : Pins}

/-- R53: the reverse transition has the opposite value. -/
theorem stepValue_reverse (p c : Sample) : stepValue c p = -stepValue p c := by
  revert p c
  decide

/-- R106: below the threshold an UPDATE that answers a next state was quiet. -/
theorem eq_afterQuiet_of_exec_update (h : exec .update s = .next t) (hlt : (sumNow s).natAbs < threshold s.sens) :
    t = afterQuiet s := by
  rw [exec_update_below_threshold (exec_next_live h Instr.noConfusion) hlt] at h
  cases h
  rfl

/-- From the state a quiet UPDATE left, going back to the sample before it brings the sum back to the old ACC. -/
theorem sumNow_reverse (ht : t = afterQuiet { s with pins := p })
    (hr : -128 ≤ sumNow { s with pins := p } ∧ sumNow { s with pins := p } ≤ 127)
    (hq : sampleOf q = previousSample s) : sumNow { t with pins := q } = s.acc.toInt := by
  change t.acc.toInt + stepValue (previousSample t) (sampleOf q) = _
  rw [ht, toInt_acc_afterQuiet hr, previousSample_afterQuiet, hq, stepValue_reverse]
  simp only [sumNow, previousSample]
  omega

/-- Settles O24: the first UPDATE is quiet by its premise, the second because its sum is the old ACC. -/
theorem stepAndReverseNetZero : Obligations.StepAndReverseNetZero := by
  unfold Obligations.StepAndReverseNetZero
  intro s t u p q hb hlt hq ht hu
  have htq : t = afterQuiet { s with pins := p } := eq_afterQuiet_of_exec_update ht hlt
  have hsum : sumNow { t with pins := q } = s.acc.toInt :=
    sumNow_reverse htq (sumNow_in_range (s := { s with pins := p }) hlt.le) hq
  have hsens : t.sens = s.sens := by rw [htq]; rfl
  have huq : u = afterQuiet { t with pins := q } :=
    eq_afterQuiet_of_exec_update hu (by rw [hsum, hsens]; exact accBound_iff.1 hb)
  refine ⟨by rw [htq]; rfl, ?_, by rw [huq]; rfl⟩
  rw [huq, afterQuiet, hsum, BitVec.ofInt_toInt]

end Sys2Proof.Machine

/-! PROOF of O47: which commands write which element (spec/10_state.md R32). -/

namespace Sys2Proof.Machine

/-- Settles O47, command by command: each writes its own elements and leaves every other as it is. -/
theorem onlyTheListedCommandsWriteAnElement : Obligations.OnlyTheListedCommandsWriteAnElement := by
  unfold Obligations.OnlyTheListedCommandsWriteAnElement
  intro i s t h
  cases executes_of_exec_next h with
  | update hd => rw [decoderStep_frame hd]; simp
  | tupdate hd hv => rw [velocityStep_frame hv, decoderStep_frame hd]; simp
  | construct | setsens | getdir | borrowpins | release | borrowinner | decay | setinc | setdec | setwin |
    getvel => simp

end Sys2Proof.Machine

/-! SUPPORT. Two runs side by side: what each guard, each shared operation, a step and a run of the ports
(spec/60_exceptions.md R172) do to a relation between states. -/

namespace Sys2Proof.Machine

variable {R Q : State → State → Prop} {s s' : State} {o o' k k' : Host.Outcome State Fault Refusal} {i : Instr}
  {n : Millis} {f f' : State → Host.Outcome State Fault Refusal}

/-- Related outcomes are of one kind. -/
theorem outcomeRel_cases (h : outcomeRel R o o') :
    (∃ t t', o = .next t ∧ o' = .next t' ∧ R t t') ∨ (∃ r, o = .fault r ∧ o' = .fault r) ∨
      ∃ q, o = .refused q ∧ o' = .refused q := by
  cases o <;> cases o' <;> simp_all [outcomeRel]

theorem outcomeRel_refl (hR : ∀ t, R t t) (o : Host.Outcome State Fault Refusal) : outcomeRel R o o := by
  cases o with
  | next t => exact hR t
  | fault | refused => rfl

theorem outcomeRel_mono (hRQ : ∀ t t', R t t' → Q t t') (h : outcomeRel R o o') : outcomeRel Q o o' := by
  rcases outcomeRel_cases h with ⟨t, t', rfl, rfl, ht⟩ | ⟨r, rfl, rfl⟩ | ⟨q, rfl, rfl⟩
  · exact hRQ t t' ht
  · rfl
  · rfl

/-- A relation that says what the second state is, as an equation between outcomes. -/
theorem mapNext_of_outcomeRel {g : State → State} (h : outcomeRel (fun t t' => t' = g t) o o') :
    o' = mapNext g o := by
  rcases outcomeRel_cases h with ⟨t, t', rfl, rfl, ht⟩ | ⟨r, rfl, rfl⟩ | ⟨q, rfl, rfl⟩
  · rw [ht, mapNext]
  · rfl
  · rfl

theorem outcomeRel_whenLive (hl : s'.live = s.live) (h : s.live = true → outcomeRel R k k') :
    outcomeRel R (whenLive s k) (whenLive s' k') := by
  unfold whenLive
  rw [hl]
  split
  · next hs => exact h hs
  · rfl

theorem outcomeRel_whenNotLive (hl : s'.live = s.live) (h : s.live = false → outcomeRel R k k') :
    outcomeRel R (whenNotLive s k) (whenNotLive s' k') := by
  unfold whenNotLive
  rw [hl]
  split
  · rfl
  · next hs => exact h (by simpa using hs)

theorem outcomeRel_whenVelocity (hv : s'.cfg.hasVelocity = s.cfg.hasVelocity)
    (h : s.cfg.hasVelocity = true → outcomeRel R k k') : outcomeRel R (whenVelocity s k) (whenVelocity s' k') := by
  unfold whenVelocity
  rw [hv]
  split
  · next hs => exact h hs
  · rfl

theorem outcomeRel_andThen (ho : outcomeRel R o o')
    (hf : ∀ t t', o = .next t → R t t' → outcomeRel Q (f t) (f' t')) :
    outcomeRel Q (andThen o f) (andThen o' f') := by
  rcases outcomeRel_cases ho with ⟨t, t', rfl, rfl, ht⟩ | ⟨r, rfl, rfl⟩ | ⟨q, rfl, rfl⟩
  · exact hf t t' rfl ht
  · rfl
  · rfl

/-- R81, R102: SETSENS on both sides refuses the same magnitudes and selects the same sensitivity. -/
theorem outcomeRel_setsens {mag : BitVec 3} (hl : s'.live = s.live)
    (h : ∀ m, s.live = true → R (s.writeSens m) (s'.writeSens m)) :
    outcomeRel R (exec (.setsens mag) s) (exec (.setsens mag) s') := by
  simp only [exec, execSetsens]
  split
  · next m _ => exact outcomeRel_whenLive hl (h m)
  · rfl

/-- R103, R107: two decoder steps with one sum in one configuration overflow together. -/
theorem outcomeRel_decoderStep (hc : s'.cfg = s.cfg) (hsum : newSum s' = newSum s)
    (h : R (commitUpdate s (newHistory s) (wrap8 (newSum s))) (commitUpdate s' (newHistory s') (wrap8 (newSum s)))) :
    outcomeRel R (decoderStep s) (decoderStep s') := by
  rcases decoderStep_cases s with ⟨hs, ho, hd⟩ | ⟨hs, hd⟩ <;>
    rcases decoderStep_cases s' with ⟨hs', ho', hd'⟩ | ⟨hs', hd'⟩ <;> rw [hd, hd']
  · rfl
  · simp [hc, hsum, hs, ho] at hs'
  · simp [← hc, ← hsum, hs', ho'] at hs
  · rw [hsum]
    exact h

/-- R136 to R138: two velocity steps that agree in what they test branch alike. -/
theorem outcomeRel_velocityStep (hc : s'.cfg = s.cfg) (hd : s'.dir = s.dir) (ht : s'.tlast = s.tlast)
    (hi : incrementDue n s' = incrementDue n s) (hquiet : R (s.writeTlast n) (s'.writeTlast n))
    (hinc : R (s.writeVel (incrementedVel s)) (s'.writeVel (incrementedVel s'))) (hR : R s s') :
    outcomeRel R (velocityStep n s) (velocityStep n s') := by
  unfold velocityStep
  rw [hc, hd, ht, hi]
  split
  · exact hquiet
  · split
    · rfl
    · cases incrementDue n s with
      | true => exact hinc
      | false => exact hR

/-- Two steps on the same next input: a wait, a reset, a word refused by its decoder, or a command. -/
theorem outcomeRel_step (hin : s'.inputs = s.inputs) (hc : s'.cfg.hasVelocity = s.cfg.hasVelocity)
    (hidle : R s.idle s'.idle) (hreset : ∀ rest, R (s.hardwareReset rest) (s'.hardwareReset rest))
    (hexec : ∀ w p rest i, s.inputs = .command w p :: rest → decode w = .ok i →
      outcomeRel R (exec i (s.present p rest)) (exec i (s'.present p rest))) :
    outcomeRel R (step s) (step s') := by
  match h : s.inputs with
  | [] => rw [step_nil h, step_nil (hin.trans h)]; exact hidle
  | .reset :: rest => rw [step_reset h, step_reset (hin.trans h)]; exact hreset rest
  | .command w p :: rest =>
    cases hd : decode w with
    | ok i => rw [step_command_ok h hd, step_command_ok (hin.trans h) hd]; exact hexec w p rest i h hd
    | error e =>
      rw [step_command_error h hd, step_command_error (hin.trans h) hd]
      cases e with
      | illegalOpcode => rfl
      | reservedBits => simp [outcomeRel, rejection, hc]

/-- A relation that every input keeps. -/
structure Simulation (R : State → State → Prop) : Prop where
  inputs : ∀ s s', R s s' → s'.inputs = s.inputs
  hasVelocity : ∀ s s', R s s' → s'.cfg.hasVelocity = s.cfg.hasVelocity
  idle : ∀ s s', R s s' → R s.idle s'.idle
  reset : ∀ s s' rest, R s s' → R (s.hardwareReset rest) (s'.hardwareReset rest)
  present : ∀ s s' p rest, R s s' → R (s.present p rest) (s'.present p rest)
  exec : ∀ i s s' p rest, R s s' → outcomeRel R (exec i (s.present p rest)) (Machine.exec i (s'.present p rest))

/-- R173: a refused command is ignored on both sides alike. -/
theorem Simulation.ignoreCommand (h : Simulation R) (hR : R s s') : R (ignoreCommand s) (ignoreCommand s') := by
  unfold Machine.ignoreCommand
  rw [h.inputs s s' hR]
  split
  · exact h.present s s' _ _ hR
  · exact hR
  · exact hR

theorem Simulation.portStep (h : Simulation R) (hR : R s s') : outcomeRel R (portStep s) (portStep s') := by
  have hstep := outcomeRel_step (h.inputs s s' hR) (h.hasVelocity s s' hR) (h.idle s s' hR)
    (fun rest => h.reset s s' rest hR) (fun _ p rest i _ _ => h.exec i s s' p rest hR)
  rcases outcomeRel_cases hstep with ⟨t, t', ho, ho', ht⟩ | ⟨r, ho, ho'⟩ | ⟨q, ho, ho'⟩ <;>
    rw [Machine.portStep, Machine.portStep, ho, ho']
  · exact ht
  · rfl
  · exact h.ignoreCommand hR

/-- A relation that every input keeps holds after any number of them. -/
theorem Simulation.portRun (h : Simulation R) : ∀ (n : Nat) (s s' : State), R s s' →
    outcomeRel R (portRun n s) (portRun n s')
  | 0, _, _, hR => hR
  | n + 1, _, _, hR => outcomeRel_andThen (h.portStep hR) fun t t' _ ht => h.portRun n t t' ht

end Sys2Proof.Machine

/-! PROOF of O51: a host that keeps its obligations meets no fault, and cannot tell R174's two outcomes apart. -/

namespace Sys2Proof.Machine

variable {s t : State} {i : Instr} {n : Millis} {r : Fault}

/-- The same machine taking the other outcome of R174 (log entry 4). -/
def State.otherOutcome (s : State) : State := { s with cfg := { s.cfg with strict := !s.cfg.strict } }

theorem initVelocity_otherOutcome (s : State) : s.otherOutcome.initVelocity = s.initVelocity.otherOutcome := by
  cases hv : s.cfg.hasVelocity <;> simp [State.initVelocity, State.otherOutcome, hv]

theorem hardwareReset_otherOutcome (s : State) (rest : List Input) :
    s.otherOutcome.hardwareReset rest = (s.hardwareReset rest).otherOutcome :=
  initVelocity_otherOutcome (({ s with inputs := rest, rsp := none } : State).initDecoder.writeLive false)

/-- R37 keeps the decoder step away from the ends of the accumulator's range. -/
theorem not_accOverflows_of_accBound (h : accBound s = true) : accOverflows (newSum s) = false := by
  have hr := sumNow_in_range (natAbs_sumNow_le h)
  rw [newSum_eq]
  simp only [accOverflows, Bool.or_eq_false_iff, decide_eq_false_iff_not]
  omega

theorem exec_ne_fault_of_contract (hb : accBound s = true) (ht : ∀ n, i = .tupdate n → s.tlast.toNat ≤ n.toNat) :
    exec i s ≠ .fault r := by
  intro h
  rcases (exec_fault_cases h).2 with ⟨_, ho⟩ | ⟨n, hi, hlt⟩
  · rw [not_accOverflows_of_accBound hb] at ho
    cases ho
  · exact absurd (ht n hi) (Nat.not_le_of_lt hlt)

theorem decoderStep_otherOutcome (hb : accBound s = true) :
    outcomeRel (fun t t' => t' = t.otherOutcome) (decoderStep s) (decoderStep s.otherOutcome) := by
  have hle := natAbs_sumNow_le hb
  rcases hle.eq_or_lt with he | hlt
  · rw [decoderStep_event he, decoderStep_event (s := s.otherOutcome) he]
    rfl
  · rw [decoderStep_quiet (sumNow_in_range hle) hlt.ne,
      decoderStep_quiet (s := s.otherOutcome) (sumNow_in_range hle) hlt.ne]
    rfl

/-- R136, R137: with a timestamp that is not before TLAST the configuration does not matter. -/
theorem velocityStep_of_not_backwards (ht : s.tlast.toNat ≤ n.toNat) :
    velocityStep n s = .next (if s.dir = .none then s.writeTlast n
      else if incrementDue n s then s.writeVel (incrementedVel s) else s) := by
  rw [velocityStep, decide_eq_false (Nat.not_lt_of_le ht), Bool.and_false, if_neg Bool.false_ne_true]
  exact (apply_ite _ _ _ _).symm

theorem velocityStep_otherOutcome (ht : s.tlast.toNat ≤ n.toNat) :
    outcomeRel (fun t t' => t' = t.otherOutcome) (velocityStep n s) (velocityStep n s.otherOutcome) := by
  rw [velocityStep_of_not_backwards ht, velocityStep_of_not_backwards (s := s.otherOutcome) ht]
  change ite _ _ _ = State.otherOutcome (ite _ _ _)
  rw [apply_ite State.otherOutcome, apply_ite State.otherOutcome]
  rfl

/-- R174: within R37's bound and with no timestamp before TLAST, a command does the same in both configurations. -/
theorem exec_otherOutcome (hb : accBound s = true) (ht : ∀ n, i = .tupdate n → s.tlast.toNat ≤ n.toNat) :
    outcomeRel (fun t t' => t' = t.otherOutcome) (exec i s) (exec i s.otherOutcome) := by
  cases i with
  | construct => exact outcomeRel_whenNotLive rfl fun _ => initVelocity_otherOutcome (s.initDecoder.writeLive true)
  | update => exact outcomeRel_whenLive rfl fun _ => decoderStep_otherOutcome hb
  | tupdate n =>
    refine outcomeRel_whenVelocity rfl fun _ => outcomeRel_whenLive rfl fun _ =>
      outcomeRel_andThen (decoderStep_otherOutcome hb) fun t t' hd htt => ?_
    have htlast : t.tlast = s.tlast := by rw [decoderStep_frame hd]
    rw [htt]
    exact velocityStep_otherOutcome (htlast ▸ ht n rfl)
  | setsens mag => exact outcomeRel_setsens rfl fun _ _ => rfl
  | getdir | borrowpins | release => exact outcomeRel_whenLive rfl fun _ => rfl
  | borrowinner | decay | setinc | setdec | setwin | getvel =>
    exact outcomeRel_whenVelocity rfl fun _ => outcomeRel_whenLive rfl fun _ => rfl

/-- R207: what the contract says of a TUPDATE that comes next. -/
theorem tlast_le_of_hostContract (h : hostContract s = true) (hi : nextCommand s = some (.tupdate n)) :
    s.tlast.toNat ≤ n.toNat := by
  simp only [hostContract, hi, Bool.and_eq_true, decide_eq_true_iff] at h
  exact h.1

/-- Settles O51: a fault would need a sum out of range or a timestamp before TLAST; without either, the two
configurations take the same step. -/
theorem contractKeepingHostMeetsNoFault : Obligations.ContractKeepingHostMeetsNoFault := by
  unfold Obligations.ContractKeepingHostMeetsNoFault
  intro s hb hc
  have htlast {w p rest i} (hin : s.inputs = .command w p :: rest) (hd : decode w = .ok i) (n : Millis)
      (hi : i = .tupdate n) : s.tlast.toNat ≤ n.toNat :=
    tlast_le_of_hostContract hc (hi ▸ nextCommand_of_decode hin hd)
  refine ⟨fun r h => ?_, mapNext_of_outcomeRel (g := State.otherOutcome) ?_⟩
  · obtain ⟨w, p, rest, i, hin, hd, h⟩ := step_fault_cases h
    exact exec_ne_fault_of_contract (s := s.present p rest) hb (htlast hin hd) h
  · exact outcomeRel_step rfl rfl rfl (hardwareReset_otherOutcome s) fun w p rest i hin hd =>
      exec_otherOutcome (s := s.present p rest) hb (htlast hin hd)

end Sys2Proof.Machine


/-! PROOF of O57: HIST[7:4] is never observed (spec/10_state.md R35). -/

namespace Sys2Proof.Machine

variable {s s' : State} {i : Instr} {h : BitVec 8}

/-- R35: the second state is the first with another history, the same in its low four bits. -/
theorem sameButOldHistory_iff :
    sameButOldHistory s s' ↔ ∃ h, h.extractLsb' 0 4 = s.hist.extractLsb' 0 4 ∧ s' = { s with hist := h } := by
  constructor
  · rintro ⟨hlow, heq⟩
    refine ⟨s'.hist, hlow, ?_⟩
    rw [← heq]
  · rintro ⟨h, hlow, rfl⟩
    exact ⟨hlow, rfl⟩

/-- R55: the previous sample lies in HIST[3:0]. -/
theorem previousSample_congr (hlow : s'.hist.extractLsb' 0 4 = s.hist.extractLsb' 0 4) :
    previousSample s' = previousSample s := by
  have htwo (h : BitVec 8) : h.extractLsb' 0 2 = (h.extractLsb' 0 4).extractLsb' 0 2 := by
    ext i hi
    simp
  rw [previousSample, previousSample, htwo, hlow, ← htwo]

/-- R104 (3): the low four bits of the new history are the previous sample and the current one. -/
theorem extractLsb'_historyNow (s : State) :
    (historyNow s).extractLsb' 0 4 = previousSample s ++ sampleOf s.pins := by
  unfold historyNow previousSample
  ext i hi
  simp only [Nat.reduceAdd, BitVec.getElem_extractLsb', zero_add]
  grind

/-- R35: the decoder step looks at HIST[3:0] only, and what else HIST held is shifted on. -/
theorem decoderStep_sameButOldHistory (hlow : h.extractLsb' 0 4 = s.hist.extractLsb' 0 4) :
    outcomeRel sameButOldHistory (decoderStep s) (decoderStep { s with hist := h }) := by
  have hprev : previousSample { s with hist := h } = previousSample s := previousSample_congr hlow
  refine outcomeRel_decoderStep rfl ?_ ⟨?_, rfl⟩
  · rw [newSum_eq, newSum_eq, sumNow, sumNow, hprev]
  · change (historyNow { s with hist := h }).extractLsb' 0 4 = (historyNow s).extractLsb' 0 4
    rw [extractLsb'_historyNow, extractLsb'_historyNow, hprev]

/-- R35: every command keeps the relation. -/
theorem exec_sameButOldHistory (hlow : h.extractLsb' 0 4 = s.hist.extractLsb' 0 4) :
    outcomeRel sameButOldHistory (exec i s) (exec i { s with hist := h }) := by
  cases i with
  | construct => exact outcomeRel_whenNotLive rfl fun _ => ⟨rfl, rfl⟩
  | update => exact outcomeRel_whenLive rfl fun _ => decoderStep_sameButOldHistory hlow
  | tupdate n =>
    refine outcomeRel_whenVelocity rfl fun _ => outcomeRel_whenLive rfl fun _ =>
      outcomeRel_andThen (decoderStep_sameButOldHistory hlow) fun t t' _ ht => ?_
    obtain ⟨h', hlow', rfl⟩ := sameButOldHistory_iff.1 ht
    exact outcomeRel_velocityStep rfl rfl rfl rfl ⟨hlow', rfl⟩ ⟨hlow', rfl⟩ ⟨hlow', rfl⟩
  | setsens mag => exact outcomeRel_setsens rfl fun _ _ => ⟨hlow, rfl⟩
  | getdir | borrowpins | release => exact outcomeRel_whenLive rfl fun _ => ⟨hlow, rfl⟩
  | borrowinner | decay | setinc | setdec | setwin | getvel =>
    exact outcomeRel_whenVelocity rfl fun _ => outcomeRel_whenLive rfl fun _ => ⟨hlow, rfl⟩

theorem simulation_sameButOldHistory : Simulation sameButOldHistory where
  inputs s s' hR := by obtain ⟨h, _, rfl⟩ := sameButOldHistory_iff.1 hR; rfl
  hasVelocity s s' hR := by obtain ⟨h, _, rfl⟩ := sameButOldHistory_iff.1 hR; rfl
  idle s s' hR := by obtain ⟨h, hlow, rfl⟩ := sameButOldHistory_iff.1 hR; exact ⟨hlow, rfl⟩
  reset s s' rest hR := by obtain ⟨h, _, rfl⟩ := sameButOldHistory_iff.1 hR; exact ⟨rfl, rfl⟩
  present s s' p rest hR := by obtain ⟨h, hlow, rfl⟩ := sameButOldHistory_iff.1 hR; exact ⟨hlow, rfl⟩
  exec i s s' p rest hR := by
    obtain ⟨h, hlow, rfl⟩ := sameButOldHistory_iff.1 hR
    exact exec_sameButOldHistory (s := s.present p rest) hlow

/-- Settles O57: the relation is kept by every input. -/
theorem oldHistoryIsNeverObserved : Obligations.OldHistoryIsNeverObserved :=
  simulation_sameButOldHistory.portRun

end Sys2Proof.Machine

/-! PROOF of O58: the elements of a block that is not live are never observed (spec/10_state.md R41, R101, R112). -/

namespace Sys2Proof.Machine

variable {s s' : State} {i : Instr}

/-- The two states agree in everything but, if unit VT is absent, its five elements (R20), which no command reads. -/
structure SameButAbsentUnit (s s' : State) : Prop where
  decoder : s' = { s with vel := s'.vel, incf := s'.incf, decf := s'.decf, win := s'.win, tlast := s'.tlast }
  unit : s.cfg.hasVelocity = true → s' = s

/-- Nothing tells the two states apart: they show the same ports to a host with the same inputs, and while the block is
live they agree in every element that exists. Of a block that is not live the elements and the pins may be any. -/
structure Indistinguishable (s s' : State) : Prop where
  view : sameView s s'
  cfg : s'.cfg = s.cfg
  draws : s'.draws = s.draws
  live : s'.live = s.live
  elements : s.live = true → SameButAbsentUnit s s'

theorem SameButAbsentUnit.refl (s : State) : SameButAbsentUnit s s := ⟨rfl, fun _ => rfl⟩

theorem SameButAbsentUnit.indistinguishable (h : SameButAbsentUnit s s') : Indistinguishable s s' where
  view := by rw [h.decoder]; exact ⟨rfl, rfl, rfl⟩
  cfg := by rw [h.decoder]
  draws := by rw [h.decoder]
  live := by rw [h.decoder]
  elements _ := h

/-- A write that does not look at unit VT keeps the agreement. -/
theorem SameButAbsentUnit.map (h : SameButAbsentUnit s s') (g : State → State) (hc : (g s).cfg = s.cfg)
    (hg : ∀ v i d w l, g { s with vel := v, incf := i, decf := d, win := w, tlast := l } =
      { g s with vel := v, incf := i, decf := d, win := w, tlast := l }) : SameButAbsentUnit (g s) (g s') where
  decoder := by rw [h.decoder, hg]
  unit hv := congrArg g (h.unit (hc ▸ hv))

/-- R40: of two states that agree but in the unit's elements, CONSTRUCT's values for those that exist make one. -/
theorem sameButAbsentUnit_initVelocity
    (h : s' = { s with vel := s'.vel, incf := s'.incf, decf := s'.decf, win := s'.win, tlast := s'.tlast }) :
    SameButAbsentUnit s.initVelocity s'.initVelocity := by
  cases hv : s.cfg.hasVelocity with
  | true =>
    have heq : s'.initVelocity = s.initVelocity := by
      rw [h]
      simp [State.initVelocity, hv]
    rw [heq]
    exact .refl _
  | false =>
    have hs : s.initVelocity = s := by simp [State.initVelocity, hv]
    have hs' : s'.initVelocity = s' := by
      rw [State.initVelocity, show s'.cfg = s.cfg by rw [h], hv]
      rfl
    rw [hs, hs']
    exact ⟨h, fun hu => by simp [hv] at hu⟩

/-- R100, R101: CONSTRUCT writes every element that exists, whatever the elements were. -/
theorem Indistinguishable.construct (h : Indistinguishable s s') (hp : s'.pins = s.pins) :
    SameButAbsentUnit (s.initDecoder.writeLive true).initVelocity (s'.initDecoder.writeLive true).initVelocity := by
  obtain ⟨⟨hrsp, hout, hin⟩, hcfg, hdraws, -, -⟩ := h
  refine sameButAbsentUnit_initVelocity ?_
  simp only [State.initDecoder, State.writeLive, hp, hrsp, hout, hin, hcfg, hdraws]

/-- R41, R101: on the same pins every command keeps the two states indistinguishable: CONSTRUCT because it writes every
element, a command of unit DEC because it does not look at the unit, a command of unit VT because it runs only where the
states are the same. -/
theorem exec_indistinguishable (h : Indistinguishable s s') (hp : s'.pins = s.pins) :
    outcomeRel Indistinguishable (exec i s) (exec i s') := by
  cases i with
  | construct => exact outcomeRel_whenNotLive h.live fun _ => (h.construct hp).indistinguishable
  | update =>
    refine outcomeRel_whenLive h.live fun hl => outcomeRel_decoderStep h.cfg ?_ ?_
    · rw [(h.elements hl).decoder]
      rfl
    · exact ((h.elements hl).map (fun u => commitUpdate u (newHistory u) (wrap8 (newSum s))) rfl
        fun _ _ _ _ _ => rfl).indistinguishable
  | setsens mag =>
    exact outcomeRel_setsens h.live fun m hl =>
      ((h.elements hl).map (·.writeSens m) rfl fun _ _ _ _ _ => rfl).indistinguishable
  | getdir =>
    exact outcomeRel_whenLive h.live fun hl =>
      ((h.elements hl).map (fun u => u.respond (u.dir.code.setWidth 64)) rfl fun _ _ _ _ _ => rfl).indistinguishable
  | borrowpins => exact outcomeRel_whenLive h.live fun _ => h
  | release =>
    exact outcomeRel_whenLive h.live fun hl =>
      ((h.elements hl).map (·.writeLive false) rfl fun _ _ _ _ _ => rfl).indistinguishable
  | borrowinner | tupdate | decay | setinc | setdec | setwin | getvel =>
    refine outcomeRel_whenVelocity (congrArg _ h.cfg) fun hv => outcomeRel_whenLive h.live fun hl => ?_
    rw [(h.elements hl).unit hv]
    exact outcomeRel_refl (fun t => (SameButAbsentUnit.refl t).indistinguishable) _

theorem Indistinguishable.idle (h : Indistinguishable s s') : Indistinguishable s.idle s'.idle := by
  obtain ⟨⟨_, hout, hin⟩, hcfg, hdraws, hlive, helements⟩ := h
  exact ⟨⟨rfl, hout, hin⟩, hcfg, hdraws, hlive,
    fun hl => (helements hl).map State.idle rfl fun _ _ _ _ _ => rfl⟩

theorem Indistinguishable.present (h : Indistinguishable s s') (p : Pins) (rest : List Input) :
    Indistinguishable (s.present p rest) (s'.present p rest) := by
  obtain ⟨⟨_, hout, _⟩, hcfg, hdraws, hlive, helements⟩ := h
  exact ⟨⟨rfl, hout, rfl⟩, hcfg, hdraws, hlive,
    fun hl => (helements hl).map (·.present p rest) rfl fun _ _ _ _ _ => rfl⟩

/-- R200: after a reset neither block is live. -/
theorem Indistinguishable.hardwareReset (h : Indistinguishable s s') (rest : List Input) :
    Indistinguishable (s.hardwareReset rest) (s'.hardwareReset rest) := by
  obtain ⟨⟨_, hout, _⟩, hcfg, hdraws, _, _⟩ := h
  exact ⟨⟨by simp, by simpa using hout, by simp⟩, by simpa using hcfg, by simpa using hdraws, by simp, by simp⟩

theorem simulation_indistinguishable : Simulation Indistinguishable where
  inputs _ _ h := h.view.2.2
  hasVelocity _ _ h := congrArg _ h.cfg
  idle _ _ h := h.idle
  reset _ _ rest h := h.hardwareReset rest
  present _ _ p rest h := h.present p rest
  exec _ _ _ p rest h := exec_indistinguishable (h.present p rest) rfl

/-- Settles O58: of two blocks that are not live only the ports and the model's own fields need to agree. -/
theorem elementsOfADeadBlockAreNeverObserved : Obligations.ElementsOfADeadBlockAreNeverObserved := by
  unfold Obligations.ElementsOfADeadBlockAreNeverObserved
  intro n s s' hl hl' hview hcfg hdraws
  have h : Indistinguishable s s' :=
    ⟨hview, hcfg, hdraws, hl'.trans hl.symm, fun hlive => absurd hlive (by simp [hl])⟩
  exact outcomeRel_mono (fun _ _ ht => ht.view) (simulation_indistinguishable.portRun n s s' h)

end Sys2Proof.Machine

/-! PROOF of O10, O11 and O55: reset and the wait (spec/10_state.md R40, R41, spec/70_reset_and_hazards.md R200,
R201). -/

namespace Sys2Proof.Machine

/-- R41, R200: the reset writes every element that exists; without unit VT its five do not. -/
theorem hardwareReset_eq (s : State) (rest : List Input) :
    s.hardwareReset rest =
      if s.cfg.hasVelocity then
        { s with hist := 0x00, acc := 0, dir := .none, sens := .default, live := false, vel := 0x00000000,
                 incf := 0x3E4CCCCD, decf := 0x3C23D70A, win := 25, tlast := 0, inputs := rest, rsp := none }
      else
        { s with hist := 0x00, acc := 0, dir := .none, sens := .default, live := false, inputs := rest, rsp := none } :=
  rfl

/-- Settles O10, by the step's rules for no input and for a reset. -/
theorem stepWaitsOrResets : Obligations.StepWaitsOrResets := by
  unfold Obligations.StepWaitsOrResets
  exact fun s => ⟨step_nil, fun rest h => (step_reset h).trans (congrArg _ (hardwareReset_eq s rest))⟩

/-- Settles O11: the elements by the definition of the reset state, the step as a wait with no response to end. -/
theorem resetLeavesTheConstructValues : Obligations.ResetLeavesTheConstructValues :=
  ⟨rfl, rfl, rfl, rfl, rfl, rfl, rfl, rfl, rfl, rfl, rfl, rfl, rfl, step_nil rfl⟩

/-- Settles O55: DIR is None, no response was made, ACC is 0 and VEL is 0.0. -/
theorem resetMeetsTheInvariants : Obligations.ResetMeetsTheInvariants := by
  unfold Obligations.ResetMeetsTheInvariants
  refine ⟨⟨fun hd => absurd rfl hd, fun v hv => ?_, fun v hv => ?_⟩, accBound_of_acc_eq_zero rfl,
    velBound_iff.2 (Nat.zero_le _)⟩
  · cases hv
  · cases hv

end Sys2Proof.Machine

/-! PROOF of O30 and O9: what the pins can do to a command, and which command a step runs (spec/20_memory.md R57 to R60,
spec/30_encoding.md R82). -/

namespace Sys2Proof.Machine

variable {s : State} {i : Instr} {q : Pins}

/-- The same state with other levels at the pins. -/
def State.withPins (s : State) (q : Pins) : State := { s with pins := q }

/-- The second state is the first with `q` at the pins. -/
def withPinsRel (q : Pins) (t t' : State) : Prop := t' = t.withPins q

theorem initVelocity_withPins (s : State) : (s.withPins q).initVelocity = s.initVelocity.withPins q := by
  cases hv : s.cfg.hasVelocity <;> simp [State.initVelocity, State.withPins, hv]

/-- R57: a failed read has the effective level of a low pin. -/
theorem effectiveLevel_of_failed (l : Bool) : effectiveLevel l true = effectiveLevel false false := Bool.and_false l

/-- R57: the sample is made of the two effective levels alone. -/
theorem sampleOf_congr {p q : Pins} (ha : (p.a && !p.aErr) = (q.a && !q.aErr))
    (hb : (p.b && !p.bErr) = (q.b && !q.bErr)) : sampleOf q = sampleOf p := by
  rw [sampleOf, sampleOf, ha, hb]

/-- R103, R104: the decoder step sees the pins only as their sample. -/
theorem decoderStep_withPins (hq : sampleOf q = sampleOf s.pins) :
    outcomeRel (withPinsRel q) (decoderStep s) (decoderStep (s.withPins q)) := by
  have hhist : newHistory (s.withPins q) = newHistory s := congrArg (shiftHistory s.hist) hq
  refine outcomeRel_decoderStep rfl (congrArg (accumulate s.acc) hhist) ?_
  rw [hhist]
  rfl

/-- R134 to R137: after the inner UPDATE a TUPDATE does not look at the pins again. -/
theorem velocityStep_withPins (n : Millis) (s : State) :
    outcomeRel (withPinsRel q) (velocityStep n s) (velocityStep n (s.withPins q)) :=
  outcomeRel_velocityStep rfl rfl rfl rfl rfl rfl rfl

/-- R58: UPDATE and TUPDATE go alike at every reading with one sample, every other command at every reading. -/
theorem exec_withPins (hq : sampleOf q = sampleOf s.pins ∨ (i ≠ .update ∧ ∀ n, i ≠ .tupdate n)) :
    outcomeRel (withPinsRel q) (exec i s) (exec i (s.withPins q)) := by
  cases i with
  | update =>
    have hsample : sampleOf q = sampleOf s.pins := hq.resolve_right fun h => h.1 rfl
    exact outcomeRel_whenLive rfl fun _ => decoderStep_withPins hsample
  | tupdate n =>
    have hsample : sampleOf q = sampleOf s.pins := hq.resolve_right fun h => h.2 n rfl
    refine outcomeRel_whenVelocity rfl fun _ => outcomeRel_whenLive rfl fun _ =>
      outcomeRel_andThen (decoderStep_withPins hsample) fun t t' _ ht => ?_
    rw [ht]
    exact velocityStep_withPins n t
  | construct => exact outcomeRel_whenNotLive rfl fun _ => initVelocity_withPins (s.initDecoder.writeLive true)
  | setsens mag => exact outcomeRel_setsens rfl fun _ _ => rfl
  | getdir | borrowpins | release => exact outcomeRel_whenLive rfl fun _ => rfl
  | borrowinner | decay | setinc | setdec | setwin | getvel =>
    exact outcomeRel_whenVelocity rfl fun _ => outcomeRel_whenLive rfl fun _ => rfl

/-- Settles O30: two readings with the same effective levels give one sample, and the sample is all a command sees. -/
theorem pinsMatterOnlyAsEffectiveLevels : Obligations.PinsMatterOnlyAsEffectiveLevels := by
  unfold Obligations.PinsMatterOnlyAsEffectiveLevels
  refine ⟨fun i s p q h => ?_, fun l b e => ?_⟩
  · have hq : sampleOf q = sampleOf p ∨ (i ≠ .update ∧ ∀ n, i ≠ .tupdate n) :=
      h.imp_left fun hlevels => sampleOf_congr hlevels.1 hlevels.2
    exact mapNext_of_outcomeRel (exec_withPins (s := s.withPins p) hq)
  · simp only [pinSample, effectiveLevel_of_failed, and_self]

/-- Settles O9, by the step's rule for a word that decodes. -/
theorem stepRunsTheDecodedCommand : Obligations.StepRunsTheDecodedCommand := by
  unfold Obligations.StepRunsTheDecodedCommand
  exact fun s w p rest i hin hd => step_command_ok hin hd

end Sys2Proof.Machine

/-! PROOF of O29: the transition table and its symmetries (spec/20_memory.md R51 to R55). -/

namespace Sys2Proof.Machine

/-- R51, R54: the constant spells R51's list. -/
theorem tblRead_eq_list (i : BitVec 4) : tblRead i =
    ([0, 1, -1, 0, -1, 0, 0, 1, 1, 0, 0, -1, 0, -1, 1, 0] : List Int).getD i.toNat 0 := by
  revert i
  decide

/-- R53: the entry of a transition is its closed form. -/
theorem tblRead_append (p c : Sample) : tblRead (p ++ c) = stepValue p c := by
  revert p c
  decide

/-- Phase A and phase B exchanged. -/
def swapPhases (x : Sample) : Sample := x.extractLsb' 0 1 ++ x.extractLsb' 1 1

/-- R53: exchanging the phases turns the direction around. -/
theorem stepValue_swapPhases (p c : Sample) : stepValue (swapPhases p) (swapPhases c) = -stepValue p c := by
  revert p c
  decide

/-- R53: a xor does not see both its bits inverted. -/
theorem stepValue_not (p c : Sample) : stepValue (~~~p) (~~~c) = stepValue p c := by
  simp [stepValue]

/-- R53: a repeated sample and a double jump do not count, and every other transition does. -/
theorem stepValue_eq_zero_iff (p c : Sample) : stepValue p c = 0 ↔ p = c ∨ p = ~~~c := by
  revert p c
  decide

/-- Settles O29: the table is the closed form, and the symmetries are the closed form's. -/
theorem transitionTableIsTheGrayCodeCycle : Obligations.TransitionTableIsTheGrayCodeCycle := by
  unfold Obligations.TransitionTableIsTheGrayCodeCycle
  refine ⟨tblRead_eq_list, fun p c => ?_⟩
  simp only [tblRead_append]
  exact ⟨trivial, stepValue_reverse p c,
    (tblRead_append (swapPhases p) (swapPhases c)).trans (stepValue_swapPhases p c), stepValue_not p c,
    stepValue_eq_zero_iff p c⟩

end Sys2Proof.Machine

/-! SUPPORT. Decoding, said once: the opcode fixes the command, its format says how many low bits of `CW[63:0]` are the
operand, and a word that fits is the command with that operand (spec/30_encoding.md R74 to R80). -/

namespace Sys2Proof

/-- How many low bits of `CW[63:0]` a command's format gives its operand; the bits above them must be 0
(R75 to R78, R80). -/
def Instr.operandWidth : Instr → Nat
  | .construct | .update | .getdir | .borrowpins | .release | .borrowinner | .decay | .getvel => 0
  | .setsens _ => 3
  | .setinc _ | .setdec _ => 32
  | .tupdate _ | .setwin _ => 64

/-- The command of the same row whose operand is read from `arg` (R75 to R77). -/
def Instr.withOperand (arg : Word64) : Instr → Instr
  | .setsens _ => .setsens (arg.extractLsb' 0 3)
  | .tupdate _ => .tupdate arg
  | .setinc _ => .setinc (arg.extractLsb' 0 32)
  | .setdec _ => .setdec (arg.extractLsb' 0 32)
  | .setwin _ => .setwin arg
  | i => i

variable {w : CommandWord} {i j : Instr} {arg : Word64}

/-- The field of an operand above bit `k` is 0 exactly when the operand is below `2 ^ k`. -/
theorem extractLsb'_high_eq_zero_iff {k n : Nat} (hk : k + n = 64) (x : Word64) :
    x.extractLsb' k n = 0 ↔ x.toNat < 2 ^ k := by
  have hdiv : x.toNat / 2 ^ k < 2 ^ n := Nat.div_lt_of_lt_mul (by rw [← pow_add, hk]; exact x.isLt)
  rw [← BitVec.toNat_inj, BitVec.extractLsb'_toNat, Nat.shiftRight_eq_div_pow, Nat.mod_eq_of_lt hdiv]
  exact Nat.div_eq_zero_iff_lt (Nat.two_pow_pos k)

/-- An operand below `2 ^ k` is its low `k` bits, extended (R75, R76). -/
theorem setWidth_low_eq {k : Nat} {x : Word64} (h : x.toNat < 2 ^ k) : (x.extractLsb' 0 k).setWidth 64 = x := by
  refine BitVec.eq_of_toNat_eq ?_
  rw [BitVec.toNat_setWidth, BitVec.extractLsb'_toNat, Nat.shiftRight_zero, Nat.mod_eq_of_lt h, Nat.mod_eq_of_lt x.isLt]

/-- The low `k` bits of an extended field are the field (R75, R76). -/
theorem low_setWidth_eq {k : Nat} (hk : k ≤ 64) (m : BitVec k) : (m.setWidth 64).extractLsb' 0 k = m :=
  (BitVec.extractLsb'_setWidth_of_le (by omega)).trans BitVec.extractLsb'_eq_self

/-- A field of the operand is that field of the word (R70). -/
theorem extractLsb'_operandOf {k n : Nat} (hk : k + n ≤ 64) (w : CommandWord) :
    (operandOf w).extractLsb' k n = w.extractLsb' k n :=
  BitVec.extractLsb'_extractLsb'_of_le hk

@[simp] theorem Instr.opcode_withOperand (arg : Word64) (i : Instr) : (i.withOperand arg).opcode = i.opcode := by
  cases i <;> rfl

@[simp] theorem Instr.mnemonic_withOperand (arg : Word64) (i : Instr) :
    (i.withOperand arg).mnemonic = i.mnemonic := by
  cases i <;> rfl

/-- An operand that fits the format is the operand of the command read from it. -/
theorem Instr.operand_withOperand (h : arg.toNat < 2 ^ i.operandWidth) : (i.withOperand arg).operand = arg := by
  cases i with
  | construct | update | getdir | borrowpins | release | borrowinner | decay | getvel =>
    exact (BitVec.eq_of_toNat_eq (Nat.lt_one_iff.1 h)).symm
  | setsens | setinc | setdec => exact setWidth_low_eq h
  | tupdate | setwin => rfl

/-- A command's own operand fits its format. -/
theorem Instr.operand_lt (i : Instr) : i.operand.toNat < 2 ^ i.operandWidth := by
  cases i with
  | construct | update | getdir | borrowpins | release | borrowinner | decay | getvel => exact Nat.one_pos
  | setsens m | setinc m | setdec m =>
    exact (BitVec.toNat_setWidth_of_le (by decide)).trans_lt m.isLt
  | tupdate t | setwin t => exact t.isLt

/-- A command read from its own operand is itself. -/
theorem Instr.withOperand_operand (i : Instr) : i.withOperand i.operand = i := by
  cases i with
  | setsens m => exact congrArg Instr.setsens (low_setWidth_eq (by decide) m)
  | setinc f => exact congrArg Instr.setinc (low_setWidth_eq (by decide) f)
  | setdec f => exact congrArg Instr.setdec (low_setWidth_eq (by decide) f)
  | construct | update | getdir | borrowpins | release | borrowinner | decay | getvel | tupdate | setwin => rfl

theorem decodeN_eq (i : Instr) (arg : Word64) :
    decodeN i arg = if arg.toNat < 2 ^ 0 then .ok i else .error .reservedBits := by
  simp only [decodeN, ← BitVec.toNat_inj, pow_zero, Nat.lt_one_iff]
  rfl

theorem decodeS_eq (mk : BitVec 3 → Instr) (arg : Word64) :
    decodeS mk arg = if arg.toNat < 2 ^ 3 then .ok (mk (arg.extractLsb' 0 3)) else .error .reservedBits := by
  simp only [decodeS, extractLsb'_high_eq_zero_iff (k := 3) (n := 61) rfl]

theorem decodeF_eq (mk : F32 → Instr) (arg : Word64) :
    decodeF mk arg = if arg.toNat < 2 ^ 32 then .ok (mk (arg.extractLsb' 0 32)) else .error .reservedBits := by
  simp only [decodeF, extractLsb'_high_eq_zero_iff (k := 32) (n := 32) rfl]

theorem decodeT_eq (mk : Millis → Instr) (arg : Word64) :
    decodeT mk arg = if arg.toNat < 2 ^ 64 then .ok (mk arg) else .error .reservedBits :=
  (if_pos arg.isLt).symm

/-- A word with a command's opcode spells that command with the word's operand, if the operand fits the format, and is
rejected for its must-be-0 field otherwise (R80). -/
theorem decode_of_opcode (hop : opcodeOf w = i.opcode) :
    decode w = if (operandOf w).toNat < 2 ^ i.operandWidth then .ok (i.withOperand (operandOf w))
      else .error .reservedBits := by
  unfold decode
  rw [hop]
  cases i with
  | construct | update | getdir | borrowpins | release | borrowinner | decay | getvel => exact decodeN_eq _ _
  | setsens => exact decodeS_eq _ _
  | setinc | setdec => exact decodeF_eq _ _
  | tupdate | setwin => exact decodeT_eq _ _

/-- One command for each row of R74, in the order of the opcodes. -/
def rowCommands : List Instr :=
  [.construct, .update, .setsens 0, .getdir, .borrowpins, .release, .borrowinner, .tupdate 0, .decay, .setinc 0,
    .setdec 0, .setwin 0, .getvel]

/-- R74, R79: every opcode is a command's or one of the three reserved ones. -/
theorem opcode_cases (op : BitVec 4) : (∃ i ∈ rowCommands, op = i.opcode) ∨ op = 0x7 ∨ op = 0xE ∨ op = 0xF := by
  revert op
  decide

/-- R79: a reserved opcode is no command's. -/
theorem Instr.opcode_not_reserved (i : Instr) : ¬ (i.opcode = 0x7 ∨ i.opcode = 0xE ∨ i.opcode = 0xF) := by
  cases i <;> simp [Instr.opcode]

theorem decode_of_reserved (h : opcodeOf w = 0x7 ∨ opcodeOf w = 0xE ∨ opcodeOf w = 0xF) :
    decode w = .error .illegalOpcode := by
  unfold decode
  rcases h with h | h | h <;> rw [h] <;> rfl

/-- A word spells the command whose opcode and operand are its two fields, and no other (R70, R83). -/
theorem decode_ok_iff : decode w = .ok i ↔ opcodeOf w = i.opcode ∧ operandOf w = i.operand := by
  constructor
  · intro h
    rcases opcode_cases (opcodeOf w) with ⟨j, _, hop⟩ | hres
    · rw [decode_of_opcode hop] at h
      split at h
      · next hfit =>
        cases h
        exact ⟨hop.trans (j.opcode_withOperand _).symm, (Instr.operand_withOperand hfit).symm⟩
      · cases h
    · rw [decode_of_reserved hres] at h
      cases h
  · rintro ⟨hop, harg⟩
    rw [decode_of_opcode hop, harg, if_pos i.operand_lt, i.withOperand_operand]

end Sys2Proof

/-! PROOF of O2, O3 and O1: the encoder and the decoder are each other's inverse (spec/30_encoding.md R70, R83). -/

namespace Sys2Proof

/-- Settles O2: the two fields of the encoding are the command's. -/
theorem decodeOfEncodeIsTheCommand : Obligations.DecodeOfEncodeIsTheCommand := by
  unfold Obligations.DecodeOfEncodeIsTheCommand
  exact fun i => decode_ok_iff.2 ⟨opcodeOf_append _ _, operandOf_append _ _⟩

/-- Settles O3: the command has the word's two fields, and the word is made of them. -/
theorem encodeOfDecodeIsTheWord : Obligations.EncodeOfDecodeIsTheWord := by
  unfold Obligations.EncodeOfDecodeIsTheWord
  intro w i h
  obtain ⟨hop, harg⟩ := decode_ok_iff.1 h
  rw [encode, ← hop, ← harg, word_eq_fields]

/-- Settles O1: each word evaluated. -/
theorem sampleWordsDecode : Obligations.SampleWordsDecode := by
  unfold Obligations.SampleWordsDecode
  decide

end Sys2Proof

/-! PROOF of O54: a reported direction stands beside a cleared accumulator, and the response port shows the latest
output (spec/40_decoder.md R105, spec/30_encoding.md R72, R84). -/

namespace Sys2Proof.Machine

variable {s t : State} {i : Instr} {n : Millis} {v : Word64}

/-- The two clauses of `Inv` about responses look at the response port and the outputs alone. -/
def ResponsesInv (s : State) : Prop :=
  (∀ v, s.rsp = some v → s.outputs.getLast? = some v) ∧ ∀ v ∈ s.outputs, v.toNat < 2 ^ 32

theorem inv_iff : Inv s ↔ (s.dir ≠ .none → s.acc = 0) ∧ ResponsesInv s := Iff.rfl

theorem ResponsesInv.congr (h : ResponsesInv s) (hr : t.rsp = s.rsp) (ho : t.outputs = s.outputs) :
    ResponsesInv t := by
  rw [ResponsesInv, hr, ho]
  exact h

/-- R72: with no response on the port only the earlier outputs matter. -/
theorem ResponsesInv.of_rsp_none (h : ResponsesInv s) (hr : t.rsp = none) (ho : t.outputs = s.outputs) :
    ResponsesInv t := by
  rw [ResponsesInv, hr, ho]
  exact ⟨fun v hv => (by cases hv), h.2⟩

/-- R72, R84, R215: a response of at most 32 bits becomes the port's value and the latest output. -/
theorem ResponsesInv.respond (h : ResponsesInv s) (hv : v.toNat < 2 ^ 32) : ResponsesInv (s.respond v) := by
  refine ⟨fun u hu => ?_, fun u hu => ?_⟩
  · cases hu
    exact List.getLast?_concat
  · rcases List.mem_append.1 hu with hu | hu
    · exact h.2 u hu
    · rw [List.mem_singleton.1 hu]
      exact hv

/-- R84: a field of at most 32 bits, extended, has zeros in bits 63:32. -/
theorem toNat_setWidth_lt {k : Nat} (hk : k ≤ 32) (x : BitVec k) : (x.setWidth 64).toNat < 2 ^ 32 := by
  rw [BitVec.toNat_setWidth_of_le (by omega)]
  exact x.isLt.trans_le (Nat.pow_le_pow_right Nat.two_pos hk)

/-- R105, R106: after the decoder step a reported direction stands beside a cleared accumulator. -/
theorem acc_of_decoderStep (h : decoderStep s = .next t) : t.dir ≠ .none → t.acc = 0 := by
  rw [decoderStep_next h]
  exact commitUpdate_event

theorem inv_decoderStep (hs : Inv s) (h : decoderStep s = .next t) : Inv t := by
  refine inv_iff.2 ⟨acc_of_decoderStep h, (inv_iff.1 hs).2.congr ?_ ?_⟩ <;> rw [decoderStep_frame h]

theorem inv_velocityStep (hs : Inv s) (h : velocityStep n s = .next t) : Inv t := by
  rw [velocityStep_frame h]
  exact hs

/-- Every command keeps the invariant: CONSTRUCT clears DIR, UPDATE and TUPDATE write DIR by an event alone, GETDIR and
GETVEL respond with at most 32 bits, and the others write nothing it looks at. -/
theorem inv_exec (hs : Inv s) (h : exec i s = .next t) : Inv t := by
  obtain ⟨hacc, hresp⟩ := inv_iff.1 hs
  cases executes_of_exec_next h with
  | construct => exact inv_iff.2 ⟨fun hd => absurd (by simp) hd, hresp.congr (by simp) (by simp)⟩
  | update hd => exact inv_decoderStep hs hd
  | tupdate hd hv => exact inv_velocityStep (inv_decoderStep hs hd) hv
  | getdir | getvel => exact inv_iff.2 ⟨hacc, hresp.respond (toNat_setWidth_lt (by decide) _)⟩
  | setsens | borrowpins | release | borrowinner | decay | setinc | setdec | setwin => exact hs

/-- Settles O54: a wait and the presentation of a command end a response, a reset also clears DIR, and every command
keeps the invariant. -/
theorem everyStepKeepsTheInvariant : Obligations.EveryStepKeepsTheInvariant := by
  unfold Obligations.EveryStepKeepsTheInvariant
  intro s t hs h
  obtain ⟨hacc, hresp⟩ := inv_iff.1 hs
  rcases step_next_cases h with ⟨_, rfl⟩ | ⟨rest, _, rfl⟩ | ⟨w, p, rest, i, _, _, h⟩
  · exact inv_iff.2 ⟨hacc, hresp.of_rsp_none rfl rfl⟩
  · exact inv_iff.2 ⟨fun hd => absurd (by simp) hd, hresp.of_rsp_none (by simp) (by simp)⟩
  · exact inv_exec (s := s.present p rest) (inv_iff.2 ⟨hacc, hresp.of_rsp_none rfl rfl⟩) h

end Sys2Proof.Machine

/-! SUPPORT. The acceptance check on the raw word (spec/30_encoding.md R79, R80, R82) in terms of what the decoder reads. -/

namespace Sys2Proof.Machine

variable {w : CommandWord} {i : Instr}

theorem reservedOpcode_iff : reservedOpcode w = true ↔ opcodeOf w = 0x7 ∨ opcodeOf w = 0xE ∨ opcodeOf w = 0xF := by
  simp [reservedOpcode, ← BitVec.toNat_inj]

theorem reservedOpcode_of_opcode (hop : opcodeOf w = i.opcode) : reservedOpcode w = false := by
  rw [Bool.eq_false_iff, Ne, reservedOpcode_iff, hop]
  exact i.opcode_not_reserved

/-- R80: the must-be-0 field of a command's format is 0 when the operand fits the format. -/
theorem reservedBitsSet_eq_false_iff (hop : opcodeOf w = i.opcode) :
    reservedBitsSet w = false ↔ (operandOf w).toNat < 2 ^ i.operandWidth := by
  have hfield {k n : Nat} (hk : k + n = 64) :
      (w.extractLsb' k n != 0) = false ↔ (operandOf w).toNat < 2 ^ k := by
    rw [bne_eq_false_iff_eq, ← extractLsb'_operandOf hk.le, extractLsb'_high_eq_zero_iff hk]
  unfold reservedBitsSet
  rw [hop]
  cases i with
  | construct | update | getdir | borrowpins | release | borrowinner | decay | getvel | setsens | setinc |
    setdec => exact hfield rfl
  | tupdate | setwin => exact iff_of_true rfl (operandOf w).isLt

/-- Every word is rejected for its opcode (R79), rejected for its must-be-0 field (R80), or is a command's. -/
theorem decode_cases (w : CommandWord) :
    (reservedOpcode w = true ∧ decode w = .error .illegalOpcode) ∨
      (reservedOpcode w = false ∧ reservedBitsSet w = true ∧ decode w = .error .reservedBits) ∨
      (reservedOpcode w = false ∧ reservedBitsSet w = false ∧ ∃ i, decode w = .ok i) := by
  rcases opcode_cases (opcodeOf w) with ⟨i, _, hop⟩ | hres
  · have hbits := reservedBitsSet_eq_false_iff hop
    rw [decode_of_opcode hop]
    refine .inr ?_
    split
    · next hfit => exact .inr ⟨reservedOpcode_of_opcode hop, hbits.2 hfit, _, rfl⟩
    · next hfit => exact .inl ⟨reservedOpcode_of_opcode hop, by simpa using mt hbits.1 hfit, rfl⟩
  · exact .inl ⟨reservedOpcode_iff.2 hres, decode_of_reserved hres⟩

theorem decode_illegalOpcode_iff : decode w = .error .illegalOpcode ↔ reservedOpcode w = true := by
  rcases decode_cases w with ⟨h, hd⟩ | ⟨h, _, hd⟩ | ⟨h, _, i, hd⟩ <;> simp [h, hd]

theorem decode_reservedBits_iff :
    decode w = .error .reservedBits ↔ reservedOpcode w = false ∧ reservedBitsSet w = true := by
  rcases decode_cases w with ⟨h, hd⟩ | ⟨h, hb, hd⟩ | ⟨h, hb, i, hd⟩
  · simp [h, hd]
  · simp [h, hb, hd]
  · simp [hb, hd]

/-- R82 (2), (3): the refusal of a word rejected for its must-be-0 field. -/
theorem rejection_reservedBits (cfg : Config) (w : CommandWord) :
    rejection cfg w .reservedBits =
      if cfg.hasVelocity = false ∧ velocityOpcode w = true then .noVelocityUnit else .reservedBits := by
  simp [rejection, and_comm]

end Sys2Proof.Machine

/-! PROOF of O5 and O6: the words that spell no command and how a step refuses them (spec/30_encoding.md R79, R80). -/

namespace Sys2Proof.Machine

variable {w : CommandWord}

/-- Settles O5: a word with a reserved opcode is rejected for it alone, and a command has one encoding. -/
theorem reservedOpcodesSpellNoCommand : Obligations.ReservedOpcodesSpellNoCommand := by
  unfold Obligations.ReservedOpcodesSpellNoCommand
  refine ⟨fun w => ?_, fun w w' i h h' => ?_, fun s w p rest hin hop => ?_⟩
  · rw [decode_illegalOpcode_iff, reservedOpcode_iff]
  · rw [← encodeOfDecodeIsTheWord w i h, encodeOfDecodeIsTheWord w' i h']
  · exact step_command_error hin (decode_of_reserved hop)

/-- R80: format by format, a must-be-0 field that is not 0 is one the check on the raw word sees. -/
theorem reserved_of_field_ne_zero
    (h : (opcodeOf w).toNat ∈ [0x0, 0x1, 0x3, 0x4, 0x5, 0x6, 0x9, 0xD] ∧ w.extractLsb' 0 64 ≠ 0 ∨
      opcodeOf w = 0x2 ∧ w.extractLsb' 3 61 ≠ 0 ∨
      (opcodeOf w = 0xA ∨ opcodeOf w = 0xB) ∧ w.extractLsb' 32 32 ≠ 0) :
    reservedOpcode w = false ∧ reservedBitsSet w = true := by
  rcases h with ⟨hop, hfield⟩ | ⟨hop, hfield⟩ | ⟨hop | hop, hfield⟩
  · simp only [List.mem_cons, List.not_mem_nil, or_false] at hop
    rcases hop with hop | hop | hop | hop | hop | hop | hop | hop <;>
      simpa [reservedOpcode, reservedBitsSet, hop] using hfield
  · simpa [reservedOpcode, reservedBitsSet, hop] using hfield
  · simpa [reservedOpcode, reservedBitsSet, hop] using hfield
  · simpa [reservedOpcode, reservedBitsSet, hop] using hfield

/-- R77, R80: format T has no must-be-0 field. -/
theorem not_formatT_of_reservedBitsSet (h : reservedBitsSet w = true) :
    (opcodeOf w).toNat ≠ 0x8 ∧ (opcodeOf w).toNat ≠ 0xC := by
  constructor <;> intro hop <;> simp [reservedBitsSet, hop] at h

/-- R82 (2): such a word is refused for the absent unit if it is of unit VT; format T's two opcodes do not arise. -/
theorem rejection_of_reservedBitsSet (h : reservedBitsSet w = true) (cfg : Config) :
    rejection cfg w .reservedBits =
      if cfg.hasVelocity = false ∧ (opcodeOf w).toNat ∈ [0x6, 0x9, 0xA, 0xB, 0xD] then .noVelocityUnit
      else .reservedBits := by
  have hT := not_formatT_of_reservedBitsSet h
  have hvel : velocityOpcode w = true ↔ (opcodeOf w).toNat ∈ [0x6, 0x9, 0xA, 0xB, 0xD] := by
    simp only [velocityOpcode, List.contains_iff_mem, List.mem_cons, List.not_mem_nil, or_false]
    omega
  rw [rejection_reservedBits]
  exact if_congr (and_congr_right fun _ => hvel) rfl rfl

/-- Settles O6: such a word is rejected for its field, and a word of format T is not. -/
theorem nonzeroReservedFieldIsRefused : Obligations.NonzeroReservedFieldIsRefused := by
  unfold Obligations.NonzeroReservedFieldIsRefused
  refine ⟨fun s w p rest hin hfield => ?_, fun w hop hd => ?_⟩
  · have hres := reserved_of_field_ne_zero hfield
    rw [step_command_error hin (decode_reservedBits_iff.2 hres), rejection_of_reservedBitsSet hres.2]
  · obtain ⟨h8, hC⟩ := not_formatT_of_reservedBitsSet (decode_reservedBits_iff.1 hd).2
    rcases hop with hop | hop
    · exact h8 (congrArg BitVec.toNat hop)
    · exact hC (congrArg BitVec.toNat hop)

end Sys2Proof.Machine

/-! SUPPORT. Refusals, said once: the reason for which a decoded command is refused, and that the checks of
spec/30_encoding.md R82 on the raw word give it. -/

namespace Sys2Proof.Machine

variable {s : State} {o k : Host.Outcome State Fault Refusal} {q : Refusal} {g : Option Refusal} {w : CommandWord}
  {i : Instr} {p : Pins} {rest : List Input} {e : DecodeError} {cfg : Config} {live : Bool}

/-- R82 (2) and (4) to (6) for a decoded command: why it is refused, `none` if it is executed. -/
def refusalOf (cfg : Config) (live : Bool) : Instr → Option Refusal
  | .construct => if live then some .alreadyLive else none
  | .setsens mag => if legalMagnitude mag then if live then none else some .notLive else some .badSensitivity
  | .update | .getdir | .borrowpins | .release => if live then none else some .notLive
  | .borrowinner | .tupdate _ | .decay | .setinc _ | .setdec _ | .setwin _ | .getvel =>
    if cfg.hasVelocity then if live then none else some .notLive else some .noVelocityUnit

/-- `o` is a refusal with reason `g`, and no refusal if `g` is `none`. -/
def RefusesWith (o : Host.Outcome State Fault Refusal) (g : Option Refusal) : Prop :=
  ∀ q, o = .refused q ↔ g = some q

theorem refusesWith_none (h : ∀ q, o ≠ .refused q) : RefusesWith o none := fun q => by simp [h q]

theorem refusesWith_refused (q : Refusal) : RefusesWith (.refused q) (some q) := fun q' => by simp

theorem refusesWith_next (s : State) : RefusesWith (.next s) none := refusesWith_none fun q => by simp

theorem RefusesWith.whenLive (h : RefusesWith k g) :
    RefusesWith (whenLive s k) (if s.live then g else some .notLive) := by
  cases hl : s.live with
  | false => rw [whenLive_of_not_live hl]; exact refusesWith_refused _
  | true => rw [whenLive_of_live hl]; exact h

theorem RefusesWith.whenNotLive (h : RefusesWith k g) :
    RefusesWith (whenNotLive s k) (if s.live then some .alreadyLive else g) := by
  cases hl : s.live with
  | false => rw [whenNotLive_of_not_live hl]; exact h
  | true => rw [whenNotLive_of_live hl]; exact refusesWith_refused _

theorem RefusesWith.whenVelocity (h : RefusesWith k g) :
    RefusesWith (whenVelocity s k) (if s.cfg.hasVelocity then g else some .noVelocityUnit) := by
  cases hv : s.cfg.hasVelocity with
  | false => rw [whenVelocity_of_absent hv]; exact refusesWith_refused _
  | true => rw [whenVelocity_of_present hv]; exact h

theorem legalMagnitude_iff {mag : BitVec 3} : legalMagnitude mag = true ↔ mag = 2 ∨ mag = 4 := by
  simp [legalMagnitude]

/-- R75, R81: SETSENS finds a sensitivity for the legal magnitudes and for no other. -/
theorem legalMagnitude_eq_isSome (mag : BitVec 3) : legalMagnitude mag = (sensitivityOf mag).isSome := by
  revert mag
  decide

/-- R134: after its guards a TUPDATE is not refused. -/
theorem tupdate_body_ne_refused (n : Millis) : andThen (decoderStep s) (velocityStep n) ≠ .refused q := by
  cases hd : decoderStep s with
  | next t => exact velocityStep_ne_refused n
  | fault r => simp
  | refused r => exact absurd hd decoderStep_ne_refused

/-- A command is refused for the reason the acceptance check gives, and for no other. -/
theorem exec_refusesWith (i : Instr) (s : State) : RefusesWith (exec i s) (refusalOf s.cfg s.live i) := by
  cases i with
  | construct => exact (refusesWith_next _).whenNotLive
  | update => exact (refusesWith_none fun _ => decoderStep_ne_refused).whenLive
  | setsens mag =>
    rw [exec, execSetsens, refusalOf, legalMagnitude_eq_isSome]
    cases sensitivityOf mag with
    | some m => exact (refusesWith_next _).whenLive
    | none => exact refusesWith_refused _
  | getdir | borrowpins | release => exact (refusesWith_next _).whenLive
  | tupdate n => exact (refusesWith_none fun _ => tupdate_body_ne_refused n).whenLive.whenVelocity
  | borrowinner | decay | setinc | setdec | setwin | getvel => exact (refusesWith_next _).whenLive.whenVelocity

theorem exec_refused_iff : exec i s = .refused q ↔ refusalOf s.cfg s.live i = some q := exec_refusesWith i s q

/-- R82 (4): a command that is not refused is well-formed. -/
theorem wellFormed_of_refusalOf_eq_none (h : refusalOf cfg live i = none) : i.wellFormed = true := by
  cases i with
  | setsens mag =>
    rw [refusalOf] at h
    split at h
    · next hm => exact hm
    · cases h
  | construct | update | getdir | borrowpins | release | borrowinner | tupdate | decay | setinc | setdec | setwin |
    getvel => rfl

/-- R82 (1) to (3): of a word that spells no command the six checks give the rejection. -/
theorem acceptance_of_error (hd : decode w = .error e) : acceptance cfg live w = some (rejection cfg w e) := by
  cases e with
  | illegalOpcode =>
    rw [acceptance, if_pos (decode_illegalOpcode_iff.1 hd)]
    rfl
  | reservedBits =>
    obtain ⟨hop, hbits⟩ := decode_reservedBits_iff.1 hd
    rw [acceptance, if_neg (by simp [hop]), if_pos hbits, rejection_reservedBits, apply_ite some]
    rfl

/-- R82: of a word that spells a command the six checks give the command's refusal. -/
theorem acceptance_of_ok (hd : decode w = .ok i) : acceptance cfg live w = refusalOf cfg live i := by
  obtain ⟨hop, harg⟩ := decode_ok_iff.1 hd
  have hres := reservedOpcode_of_opcode hop
  have hbits := (reservedBitsSet_eq_false_iff hop).2 (harg ▸ i.operand_lt)
  have hlow : w.extractLsb' 0 3 = i.operand.extractLsb' 0 3 := by rw [← harg, extractLsb'_operandOf (by decide)]
  cases i with
  | setsens mag =>
    have hmag : w.extractLsb' 0 3 = mag := hlow.trans (low_setWidth_eq (by decide) mag)
    cases live <;> simp [acceptance, hres, hbits, hop, hmag, refusalOf, legalMagnitude_iff, Instr.opcode, ← not_or]
  | construct | update | getdir | borrowpins | release =>
    cases live <;> simp [acceptance, hres, hbits, hop, refusalOf, Instr.opcode]
  | borrowinner | tupdate | decay | setinc | setdec | setwin | getvel =>
    cases hv : cfg.hasVelocity <;> cases live <;>
      simp [acceptance, hres, hbits, hop, refusalOf, Instr.opcode, hv]

/-- R82: a step on a command word is refused for the reason the six checks give, and for no other. -/
theorem step_refused_iff (hin : s.inputs = .command w p :: rest) :
    step s = .refused q ↔ acceptance s.cfg s.live w = some q := by
  cases hd : decode w with
  | ok i => rw [step_command_ok hin hd, exec_refused_iff, acceptance_of_ok hd]; rfl
  | error e => simp [step_command_error hin hd, acceptance_of_error hd]

/-- R172: at the ports a refused command is gone and has changed nothing else. -/
theorem portStep_of_refused (hin : s.inputs = .command w p :: rest) (h : step s = .refused q) :
    portStep s = .next (s.present p rest) := by
  simp [portStep, h, ignoreCommand, hin]

end Sys2Proof.Machine

/-! PROOF of O8, O7, O35 and O48: which commands are refused, and why (spec/30_encoding.md R81, R82,
spec/41_velocity.md R134, spec/70_reset_and_hazards.md R203). -/

namespace Sys2Proof.Machine

/-- Settles O8: the six checks give the step's refusal; where they give none, the word spells a command, since every
other word is rejected. -/
theorem acceptanceCheckDecidesEveryCommand : Obligations.AcceptanceCheckDecidesEveryCommand := by
  unfold Obligations.AcceptanceCheckDecidesEveryCommand
  intro s w p rest hin
  refine ⟨fun q hq => ?_, fun hnone => ?_⟩
  · have hstep := (step_refused_iff hin).2 hq
    exact ⟨hstep, portStep_of_refused hin hstep⟩
  · cases hd : decode w with
    | error e => simp [acceptance_of_error hd] at hnone
    | ok i =>
      refine ⟨i, rfl, wellFormed_of_refusalOf_eq_none (acceptance_of_ok hd ▸ hnone), step_command_ok hin hd,
        fun q hq => ?_⟩
      simp [(step_refused_iff hin).1 hq] at hnone

/-- Settles O7: the magnitude is the only check SETSENS meets before LIVE. -/
theorem otherMagnitudesAreRefused : Obligations.OtherMagnitudesAreRefused := by
  unfold Obligations.OtherMagnitudesAreRefused
  intro s mag h2 h4
  exact exec_refused_iff.2 (if_neg (mt legalMagnitude_iff.1 (not_or.2 ⟨h2, h4⟩)))

/-- Settles O35: the refusal of a TUPDATE looks at the unit and at LIVE; its word is an encoding. -/
theorem tupdateIsRefusedOnlyForUnitOrLife : Obligations.TupdateIsRefusedOnlyForUnitOrLife := by
  unfold Obligations.TupdateIsRefusedOnlyForUnitOrLife
  refine ⟨fun s t => ⟨fun hv => ?_, fun hv hl => ?_, fun hv hl q hq => ?_⟩,
    fun t => decodeOfEncodeIsTheCommand (.tupdate t)⟩
  · exact exec_refused_iff.2 (by simp [refusalOf, hv])
  · exact exec_refused_iff.2 (by simp [refusalOf, hv, hl])
  · simp [exec_refused_iff, refusalOf, hv, hl] at hq

/-- Settles O48: with the unit and the magnitude in order, LIVE is the check that is left. -/
theorem nothingButConstructRunsWhileNotLive : Obligations.NothingButConstructRunsWhileNotLive := by
  unfold Obligations.NothingButConstructRunsWhileNotLive
  intro s i hl hwf hunit hne
  rw [exec_refused_iff, hl]
  cases i with
  | construct => exact absurd rfl hne
  | setsens mag => exact if_pos hwf
  | update | getdir | borrowpins | release => rfl
  | borrowinner | tupdate | decay | setinc | setdec | setwin | getvel => exact if_pos (hunit.resolve_right nofun)

end Sys2Proof.Machine

/-! PROOF of O4: the match and mask rows of spec/30_encoding.md R88. -/

namespace Sys2Proof

open Machine

variable {w : CommandWord} {i j : Instr} {x : Word64} {k : Nat}

/-- R88: a command's row fixes the opcode and the bits of `CW[63:0]` above its format's operand. -/
def Instr.row (i : Instr) : OpcodeRow :=
  ⟨i.mnemonic, i.opcode ++ 0#64, 0xF#4 ++ BitVec.allOnes 64 <<< i.operandWidth⟩

theorem opcodeTable_eq : opcodeTable = rowCommands.map Instr.row := rfl

theorem Instr.withOperand_zero_mem (i : Instr) : i.withOperand 0 ∈ rowCommands := by
  cases i <;> simp [Instr.withOperand, rowCommands]

/-- A command's row does not depend on its operand. -/
theorem Instr.row_withOperand (i : Instr) : (i.withOperand x).row = i.row := by
  cases i <;> rfl

theorem row_mem_opcodeTable (i : Instr) : i.row ∈ opcodeTable := by
  rw [opcodeTable_eq, ← i.row_withOperand (x := 0)]
  exact List.mem_map_of_mem i.withOperand_zero_mem

/-- No two rows share a mnemonic. -/
theorem row_eq_of_mnemonic_eq (h : i.mnemonic = j.mnemonic) : i.row = j.row :=
  List.inj_on_of_nodup_map (f := OpcodeRow.mnemonic) (by decide) (row_mem_opcodeTable i) (row_mem_opcodeTable j) h

/-- Two words are equal when their fields are (R70). -/
theorem append_eq_append_iff {a b : BitVec 4} {y : Word64} :
    (a ++ x : CommandWord) = b ++ y ↔ a = b ∧ x = y := by
  refine ⟨fun h => ⟨?_, ?_⟩, fun ⟨ha, hx⟩ => by rw [ha, hx]⟩
  · rw [← opcodeOf_append a x, h, opcodeOf_append]
  · rw [← operandOf_append a x, h, operandOf_append]

/-- The bits of an operand from bit `k` up are 0 exactly when it is below `2 ^ k`. -/
theorem and_high_eq_zero_iff : x &&& BitVec.allOnes 64 <<< k = 0 ↔ x.toNat < 2 ^ k := by
  have hle : x.toNat / 2 ^ k * 2 ^ k < 2 ^ 64 := (Nat.div_mul_le_self _ _).trans_lt x.isLt
  rw [← BitVec.shiftLeft_ushiftRight, ← BitVec.toNat_inj, BitVec.toNat_shiftLeft, BitVec.toNat_ushiftRight,
    Nat.shiftLeft_eq, Nat.shiftRight_eq_div_pow, Nat.mod_eq_of_lt hle]
  simp

/-- Clearing the bits from bit `k` up leaves an operand below `2 ^ k` as it is. -/
theorem and_not_high_eq (h : x.toNat < 2 ^ k) : x &&& ~~~(BitVec.allOnes 64 <<< k) = x := by
  have hor : x &&& (BitVec.allOnes 64 <<< k ||| ~~~(BitVec.allOnes 64 <<< k)) = x := by
    rw [BitVec.or_not_self, BitVec.and_allOnes]
  rw [BitVec.and_or_distrib_left, and_high_eq_zero_iff.2 h] at hor
  exact BitVec.zero_or.symm.trans hor

theorem row_matches_iff :
    w &&& i.row.mask = i.row.pattern ↔ opcodeOf w = i.opcode ∧ (operandOf w).toNat < 2 ^ i.operandWidth := by
  have hF : opcodeOf w &&& 0xF#4 = opcodeOf w := BitVec.and_allOnes
  rw [← and_high_eq_zero_iff, Instr.row]
  nth_rw 1 [← word_eq_fields w]
  rw [BitVec.and_append, append_eq_append_iff, hF]
  rfl

/-- R88: the unmasked bits of a word that matches are its operand. -/
theorem unmasked_eq_operandOf (hfit : (operandOf w).toNat < 2 ^ i.operandWidth) :
    (w &&& ~~~i.row.mask).extractLsb' 0 64 = operandOf w := by
  rw [Instr.row, BitVec.not_append, BitVec.extractLsb'_and, BitVec.extractLsb'_append_eq_right]
  exact and_not_high_eq hfit

theorem row_matches_of_decode (hd : decode w = .ok i) : w &&& i.row.mask = i.row.pattern := by
  obtain ⟨hop, harg⟩ := decode_ok_iff.1 hd
  exact row_matches_iff.2 ⟨hop, harg ▸ i.operand_lt⟩

/-- R88, for one row: a word that matches is the row's command with the unmasked bits as its operand. -/
theorem row_matches_iff_decodes : w &&& i.row.mask = i.row.pattern ↔
    ∃ j, decode w = .ok j ∧ j.mnemonic = i.row.mnemonic ∧ j.operand = (w &&& ~~~i.row.mask).extractLsb' 0 64 := by
  constructor
  · intro h
    obtain ⟨hop, hfit⟩ := row_matches_iff.1 h
    refine ⟨i.withOperand (operandOf w), ?_, i.mnemonic_withOperand _, ?_⟩
    · rw [decode_of_opcode hop, if_pos hfit]
    · rw [Instr.operand_withOperand hfit, unmasked_eq_operandOf hfit]
  · rintro ⟨j, hd, hname, _⟩
    rw [← row_eq_of_mnemonic_eq hname]
    exact row_matches_of_decode hd

/-- R79, R80, R88: a word that matches no row spells no command. -/
theorem decode_of_no_row (h : ∀ row ∈ opcodeTable, w &&& row.mask ≠ row.pattern) :
    decode w = .error (if reservedOpcode w then .illegalOpcode else .reservedBits) := by
  rcases decode_cases w with ⟨hop, hd⟩ | ⟨hop, _, hd⟩ | ⟨_, _, i, hd⟩
  · rw [hd, hop]; rfl
  · rw [hd, hop]; rfl
  · exact absurd (row_matches_of_decode hd) (h _ (row_mem_opcodeTable i))

/-- Settles O4: each row is a command's, and its match and mask are the test the decoder makes. -/
theorem decodeFollowsTheMatchMaskTable : Obligations.DecodeFollowsTheMatchMaskTable := by
  unfold Obligations.DecodeFollowsTheMatchMaskTable
  refine ⟨fun w => ⟨fun row hrow => ?_, decode_of_no_row⟩,
    fun mag => decodeOfEncodeIsTheCommand (.setsens mag), fun mag s hmag => ?_⟩
  · rw [opcodeTable_eq] at hrow
    obtain ⟨i, _, rfl⟩ := List.mem_map.1 hrow
    exact row_matches_iff_decodes
  · have hbad : ∀ m ∈ ([0, 1, 3, 5, 6, 7] : List (BitVec 3)), m ≠ 2 ∧ m ≠ 4 := by decide
    obtain ⟨h2, h4⟩ := hbad mag hmag
    exact otherMagnitudesAreRefused s mag h2 h4

end Sys2Proof

/-! SUPPORT. The decoder step on every sum, inside the accumulator's range and past it (spec/40_decoder.md R103 to R107):
an overflow wraps to a value that is no event, so the threshold test on the sum decides in every case. -/

namespace Sys2Proof.Machine

variable {s t : State} {i : Int} {n : Millis}

/-- R53: one transition moves the sum by at most 1 from ACC. -/
theorem natAbs_sumNow_sub_acc (s : State) : (sumNow s - s.acc.toInt).natAbs ≤ 1 := by
  have hc := stepValue_cases (previousSample s) (sampleOf s.pins)
  rw [sumNow]
  omega

/-- The sum leaves the accumulator's range by at most 1 (R22, R53). -/
theorem sumNow_bounds (s : State) : -129 ≤ sumNow s ∧ sumNow s ≤ 128 := by
  have hd := natAbs_sumNow_sub_acc s
  have ha := acc_range s.acc
  omega

/-- R107: the wrap of every value an UPDATE can compute, written out. -/
theorem toInt_wrap8_eq_ite (hi : -129 ≤ i ∧ i ≤ 128) :
    (wrap8 i).toInt = if i = 128 then -128 else if i = -129 then 127 else i := by
  split
  · next h => rw [h]; rfl
  split
  · next h => rw [h]; rfl
  · exact toInt_wrap8 (by omega) (by omega)

/-- R105, R107: the wrapped sum is an event's exactly when the sum is: neither is, past the range. -/
theorem natAbs_wrap8_sumNow_iff (s : State) :
    (wrap8 (sumNow s)).toInt.natAbs = threshold s.sens ↔ (sumNow s).natAbs = threshold s.sens := by
  have ht := threshold_bounds s.sens
  rw [toInt_wrap8_eq_ite (sumNow_bounds s)]
  split
  · omega
  split
  · omega
  · rfl

/-- R103 steps 5 and 6 on every sum. -/
theorem commitUpdate_wrap8_sumNow (s : State) :
    commitUpdate s (historyNow s) (wrap8 (sumNow s)) =
      if (sumNow s).natAbs = threshold s.sens then afterEvent s else afterQuiet s := by
  by_cases he : (sumNow s).natAbs = threshold s.sens
  · exact commitUpdate_in_range s (sumNow_in_range he.le)
  · have hn : isEvent s.sens (wrap8 (sumNow s)).toInt = false := by
      rw [Bool.eq_false_iff, Ne, isEvent_iff, natAbs_wrap8_sumNow_iff]
      exact he
    rw [if_neg he, commitUpdate, updateDirection, hn]
    rfl

/-- R174: the overflow test in terms of the sum. -/
theorem accOverflows_newSum_iff (s : State) :
    accOverflows (newSum s) = true ↔ sumNow s < -128 ∨ 127 < sumNow s := by
  rw [newSum_eq, accOverflows, Bool.or_eq_true, decide_eq_true_iff, decide_eq_true_iff]

/-- R103, R107: unless R174's fault is asked for, the decoder step is an event or a quiet call on every sum. -/
theorem decoderStep_runs (h : s.cfg.strict = false ∨ (-128 ≤ sumNow s ∧ sumNow s ≤ 127)) :
    decoderStep s = .next (if (sumNow s).natAbs = threshold s.sens then afterEvent s else afterQuiet s) := by
  rcases decoderStep_cases s with ⟨hs, ho, _⟩ | ⟨_, hd⟩
  · rw [accOverflows_newSum_iff] at ho
    rcases h with h | h
    · simp [h] at hs
    · omega
  · rw [hd, newHistory_eq, newSum_eq, commitUpdate_wrap8_sumNow]

/-- R174: the model outcome of an overflow. -/
theorem decoderStep_faults (hs : s.cfg.strict = true) (ho : sumNow s < -128 ∨ 127 < sumNow s) :
    decoderStep s = .fault .accOverflow := by
  rcases decoderStep_cases s with ⟨_, _, hd⟩ | ⟨hn, _⟩
  · exact hd
  · simp [hs, (accOverflows_newSum_iff s).2 ho] at hn

/-- An UPDATE that answers a next state was an event or quiet (R105, R106). -/
theorem exec_update_next_cases (h : exec .update s = .next t) :
    ((sumNow s).natAbs = threshold s.sens ∧ t = afterEvent s) ∨
      ((sumNow s).natAbs ≠ threshold s.sens ∧ t = afterQuiet s) := by
  have ht := decoderStep_next ((exec_update_of_live (exec_next_live h nofun)).symm.trans h)
  rw [newHistory_eq, newSum_eq, commitUpdate_wrap8_sumNow] at ht
  split at ht
  · next he => exact .inl ⟨he, ht⟩
  · next he => exact .inr ⟨he, ht⟩

/-- R137: a TUPDATE whose inner UPDATE is quiet records its timestamp. -/
theorem exec_tupdate_of_quiet (hv : s.cfg.hasVelocity = true) (hl : s.live = true)
    (hd : decoderStep s = .next t) (hq : t.dir = .none) : exec (.tupdate n) s = .next (t.writeTlast n) := by
  rw [exec_tupdate hv hl, hd, andThen_next, velocityStep, if_pos hq]

end Sys2Proof.Machine

/-! SUPPORT. What the decoder rejects for a must-be-0 field (spec/30_encoding.md R80), command by command. -/

namespace Sys2Proof

variable {arg : Word64}

/-- R80: an operand too large for the command's format. -/
theorem decode_append_of_not_fits {i : Instr} (h : ¬ arg.toNat < 2 ^ i.operandWidth) :
    decode (i.opcode ++ arg) = .error .reservedBits := by
  rw [decode_of_opcode (opcodeOf_append _ _), operandOf_append, if_neg h]

/-- R78, R80: a command without an operand admits no operand bit. -/
theorem decode_append_of_ne_zero {i : Instr} (hw : i.operandWidth = 0) (h : arg ≠ 0) :
    decode (i.opcode ++ arg) = .error .reservedBits := by
  refine decode_append_of_not_fits fun hlt => h ?_
  rw [hw] at hlt
  exact BitVec.eq_of_toNat_eq (Nat.lt_one_iff.1 hlt)

end Sys2Proof

/-! PROOF of O16 to O20: UPDATE on every sum (spec/40_decoder.md R103 to R107, spec/60_exceptions.md R174). -/

namespace Sys2Proof.Machine

variable {s t : State}

/-- R51, R103 step 4: the sum, looked up in R51's list by the new history's low four bits. -/
theorem sumNow_eq_list (s : State) :
    sumNow s = s.acc.toInt +
      ([0, 1, -1, 0, -1, 0, 0, 1, 1, 0, 0, -1, 0, -1, 1, 0] : List Int).getD ((historyNow s).toNat % 16) 0 := by
  have hidx : ((historyNow s).extractLsb' 0 4).toNat = (historyNow s).toNat % 16 := by
    rw [BitVec.extractLsb'_toNat, Nat.shiftRight_zero]
  rw [← newSum_eq, newSum, accumulate, newHistory_eq, tblRead_eq_list, hidx]

/-- R103, R107: the state an UPDATE leaves, with the threshold test on the wrapped sum. -/
theorem afterUpdate_eq (s : State) :
    (if (sumNow s).natAbs = threshold s.sens then afterEvent s else afterQuiet s) =
      { s with
        hist := historyNow s
        acc := if (wrap8 (sumNow s)).toInt.natAbs = threshold s.sens then 0
          else BitVec.ofInt 8 (wrap8 (sumNow s)).toInt
        dir := if (wrap8 (sumNow s)).toInt.natAbs = threshold s.sens then
          (if 0 < (wrap8 (sumNow s)).toInt then .clockwise else .anticlockwise) else .none } := by
  simp only [natAbs_wrap8_sumNow_iff, BitVec.ofInt_toInt]
  split
  · next he =>
    have hr := sumNow_in_range he.le
    rw [toInt_wrap8 hr.1 hr.2]
    rfl
  · rfl

/-- Settles O16: the sum with R51's list is the sum with the closed form, and the wrap written out is `wrap8`. -/
theorem updateFollowsItsSixSteps : Obligations.UpdateFollowsItsSixSteps := by
  unfold Obligations.UpdateFollowsItsSixSteps
  refine ⟨fun s => ⟨fun hl => ?_, fun hl => ?_⟩, fun arg => decode_append_of_ne_zero (i := .update) rfl⟩
  · intro cur h d sum w hpre
    have hsum : sum = sumNow s := (sumNow_eq_list s).symm
    have hw : w = (wrap8 (sumNow s)).toInt := by
      rw [toInt_wrap8_eq_ite (sumNow_bounds s), ← hsum]
    rw [hsum] at hpre
    rw [exec_update_of_live hl, decoderStep_runs hpre, afterUpdate_eq, ← hw]
    rfl
  · exact nothingButConstructRunsWhileNotLive s .update hl rfl (.inr rfl) nofun

/-- Settles O17: the threshold test on the wrapped sum is the one on the sum, and DIR is written by the listed commands
alone. -/
theorem eventClearsTheAccumulatorAndReports : Obligations.EventClearsTheAccumulatorAndReports := by
  unfold Obligations.EventClearsTheAccumulatorAndReports
  refine ⟨fun s t h => ?_, fun i s t h hc hu ht => ?_⟩
  · intro w
    have hiff : w.natAbs = threshold s.sens ↔ (sumNow s).natAbs = threshold s.sens := natAbs_wrap8_sumNow_iff s
    rw [hiff]
    rcases exec_update_next_cases h with ⟨he, rfl⟩ | ⟨he, rfl⟩
    · have hr := sumNow_in_range he.le
      have hw : w = sumNow s := toInt_wrap8 hr.1 hr.2
      have hpos := (threshold_bounds s.sens).1
      rw [hw]
      exact ⟨iff_of_true he afterEvent_dir_ne_none, fun _ => ⟨rfl, by omega, fun h0 => if_pos h0,
        fun h0 => if_neg h0.not_gt⟩⟩
    · exact ⟨iff_of_false he fun hd => hd rfl, fun he' => absurd he' he⟩
  · obtain ⟨hdec, _⟩ := onlyTheListedCommandsWriteAnElement i s t h
    obtain ⟨_, _, hdir⟩ := hdec hc hu ht
    exact hdir

/-- Settles O18: the wrapped sum is no event's, so neither is the sum. -/
theorem updateWithoutEventIsQuiet : Obligations.UpdateWithoutEventIsQuiet := by
  unfold Obligations.UpdateWithoutEventIsQuiet
  intro s t h hne
  rcases exec_update_next_cases h with ⟨he, _⟩ | ⟨_, rfl⟩
  · exact absurd ((natAbs_wrap8_sumNow_iff s).2 he) hne
  · exact ⟨rfl, rfl⟩

/-- Settles O19: the ends by computing, the range because the wrap is the identity there. -/
theorem accumulatorWrapsModulo256 : Obligations.AccumulatorWrapsModulo256 := by
  unfold Obligations.AccumulatorWrapsModulo256
  refine ⟨toInt_wrap8_eq_ite (by decide), toInt_wrap8_eq_ite (by decide), fun _ => toInt_wrap8, fun m => ?_⟩
  cases m <;> rfl

/-- R107, R174: past the range a machine that does what the hardware does is quiet and holds the wrapped sum. -/
theorem decoderStep_wraps (hs : s.cfg.strict = false) (ho : sumNow s < -128 ∨ 127 < sumNow s) :
    decoderStep s = .next { s with
      hist := historyNow s, acc := if 0 < sumNow s then 0x80 else 0x7F, dir := .none } := by
  have hne : (sumNow s).natAbs ≠ threshold s.sens := fun he => by have hr := sumNow_in_range he.le; omega
  have hb := sumNow_bounds s
  have hends : sumNow s = 128 ∨ sumNow s = -129 := by omega
  have hacc : BitVec.ofInt 8 (sumNow s) = if 0 < sumNow s then 0x80 else 0x7F := by
    rcases hends with h | h <;> rw [h] <;> rfl
  rw [decoderStep_runs (.inl hs), if_neg hne, afterQuiet, hacc]

/-- Settles O20: UPDATE does what the decoder step does, and TUPDATE records its timestamp after it if it was quiet. -/
theorem accumulatorOverflowWrapsOrFaults : Obligations.AccumulatorOverflowWrapsOrFaults := by
  unfold Obligations.AccumulatorOverflowWrapsOrFaults
  intro s n hl ho
  refine ⟨fun hs => ⟨?_, fun hv => ?_⟩, fun hs => ⟨?_, fun hv => ?_⟩⟩
  · rw [exec_update_of_live hl, decoderStep_faults hs ho]
  · rw [exec_tupdate hv hl, decoderStep_faults hs ho, andThen_fault]
  · rw [exec_update_of_live hl, decoderStep_wraps hs ho]
  · exact exec_tupdate_of_quiet hv hl (decoderStep_wraps hs ho) rfl

end Sys2Proof.Machine

/-! PROOF of O21 to O23: single UPDATEs and pairs of them (spec/40_decoder.md R108, R109). -/

namespace Sys2Proof.Machine

variable {s t : State} {n : Millis}

/-- R105: what an UPDATE reports at the threshold. -/
theorem eq_afterEvent_of_exec_update (h : exec .update s = .next t) (he : (sumNow s).natAbs = threshold s.sens) :
    t = afterEvent s := by
  rcases exec_update_next_cases h with ⟨_, ht⟩ | ⟨hne, _⟩
  · exact ht
  · exact absurd he hne

/-- R106: off the threshold an UPDATE inside the accumulator's range is quiet and holds the sum. -/
theorem quiet_of_exec_update (h : exec .update s = .next t) (hr : -128 ≤ sumNow s ∧ sumNow s ≤ 127)
    (hne : (sumNow s).natAbs ≠ threshold s.sens) : t.dir = .none ∧ t.acc.toInt = sumNow s := by
  rcases exec_update_next_cases h with ⟨he, _⟩ | ⟨_, rfl⟩
  · exact absurd he hne
  · exact ⟨rfl, toInt_acc_afterQuiet hr⟩

/-- Settles O21: at SENS = 2 a sum of 2 or -2 is an event, and every other sum in range is quiet. -/
theorem loweredSensitivityCorner : Obligations.LoweredSensitivityCorner := by
  unfold Obligations.LoweredSensitivityCorner
  intro s t hs h d
  have hthr : threshold s.sens = 2 := by rw [hs]; rfl
  have hsum : sumNow s = s.acc.toInt + d := rfl
  have hcw (h2 : sumNow s = 2) : t.dir = .clockwise ∧ t.acc = 0 := by
    rw [eq_afterEvent_of_exec_update h (by omega)]
    exact ⟨if_pos (by omega), rfl⟩
  have hacw (h2 : sumNow s = -2) : t.dir = .anticlockwise ∧ t.acc = 0 := by
    rw [eq_afterEvent_of_exec_update h (by omega)]
    exact ⟨if_neg (by omega), rfl⟩
  have hq (hne : (-128 ≤ sumNow s ∧ sumNow s ≤ 127) ∧ sumNow s ≠ 2 ∧ sumNow s ≠ -2) :
      t.dir = .none ∧ t.acc.toInt = s.acc.toInt + d :=
    quiet_of_exec_update h hne.1 (by omega)
  have hd1 : -1 ≤ d ∧ d ≤ 1 := by
    have hc : d = -1 ∨ d = 0 ∨ d = 1 := stepValue_cases _ _
    omega
  refine ⟨fun ha => ⟨fun hd => hcw (by omega), fun hd => ?_, fun hd => ?_⟩,
    fun ha => ⟨fun hd => hacw (by omega), fun hd => ?_, fun hd => ?_⟩,
    fun ha => ⟨fun h2 => hcw h2, fun h2 => hq (by omega)⟩,
    fun ha => ⟨fun h2 => hacw h2, fun h2 => hq (by omega)⟩⟩
  · exact (hq (by omega)).imp_right fun hacc => BitVec.eq_of_toInt_eq (by rw [hacc, ha, hd]; rfl)
  · exact (hq (by omega)).imp_right fun hacc => BitVec.eq_of_toInt_eq (by rw [hacc, ha, hd]; rfl)
  · exact (hq (by omega)).imp_right fun hacc => by rw [hacc, ha, hd]; rfl
  · exact (hq (by omega)).imp_right fun hacc => by rw [hacc, ha, hd]; rfl

/-- Settles O22: within the bound an UPDATE is an event at the threshold or quiet below it, where ACC holds the sum. -/
theorem oneUpdateMovesTheAccumulatorByAtMostOne : Obligations.OneUpdateMovesTheAccumulatorByAtMostOne := by
  unfold Obligations.OneUpdateMovesTheAccumulatorByAtMostOne
  intro s t hb h
  have hlt := accBound_iff.1 hb
  have hzero (h0 : stepValue (previousSample s) (sampleOf s.pins) = 0) : sumNow s = s.acc.toInt := by
    rw [sumNow, h0, add_zero]
  rcases exec_update_next_cases h with ⟨he, rfl⟩ | ⟨he, rfl⟩
  · refine ⟨iff_of_true afterEvent_dir_ne_none he, fun _ => rfl, fun hd => absurd hd afterEvent_dir_ne_none,
      fun h0 => ?_⟩
    rw [hzero h0] at he
    omega
  · refine ⟨iff_of_false (fun hd => hd rfl) he, fun hd => absurd rfl hd, fun _ => ?_, fun h0 => ⟨rfl, ?_⟩⟩
    · rw [toInt_acc_afterQuiet (sumNow_in_range (natAbs_sumNow_le hb))]
      exact natAbs_sumNow_sub_acc s
    · rw [afterQuiet, hzero h0, BitVec.ofInt_toInt]

/-- R53: from ACC = 0 the sum is at most 1, below every magnitude. -/
theorem natAbs_sumNow_of_acc_eq_zero (h : s.acc = 0) :
    (sumNow s).natAbs ≤ 1 ∧ (sumNow s).natAbs < threshold s.sens := by
  have hd := natAbs_sumNow_sub_acc s
  have ht := (threshold_bounds s.sens).1
  have h0 : s.acc.toInt = 0 := by rw [h]; rfl
  omega

/-- Settles O23: an event cleared ACC, so the next sum is below the threshold. -/
theorem eventsNeverFollowDirectly : Obligations.EventsNeverFollowDirectly := by
  unfold Obligations.EventsNeverFollowDirectly
  intro s t u p h hd hu
  rcases exec_update_next_cases h with ⟨_, rfl⟩ | ⟨_, rfl⟩
  · rw [eq_afterQuiet_of_exec_update hu (natAbs_sumNow_of_acc_eq_zero rfl).2]
    rfl
  · exact absurd rfl hd

end Sys2Proof.Machine

/-! PROOF of O56: the first TUPDATE after CONSTRUCT (spec/70_reset_and_hazards.md R205, spec/41_velocity.md R148). -/

namespace Sys2Proof.Machine

variable {s t u : State} {i : Instr} {is : List Instr} {n : Millis} {P : State → Prop}

/-- A property that every command of the list keeps holds after the list. -/
theorem commands_keep (hstep : ∀ i ∈ is, ∀ s t, P s → exec i s = .next t → P t) (hs : P s)
    (h : commands is s = .next t) : P t := by
  induction is generalizing s with
  | nil => cases h; exact hs
  | cons i is ih =>
    obtain ⟨u, hu, ht⟩ := andThen_next_iff.1 h
    have hPu : P u := hstep i List.mem_cons_self s u hs hu
    exact ih (fun j hj => hstep j (List.mem_cons_of_mem i hj)) hPu ht

/-- What holds from CONSTRUCT with unit VT until the first UPDATE or TUPDATE (R100, R205). -/
structure NotYetUpdated (s : State) : Prop where
  hasVelocity : s.cfg.hasVelocity = true
  acc : s.acc = 0
  tlast : s.tlast = 0

theorem notYetUpdated_of_construct (hv : s.cfg.hasVelocity = true) (h : exec .construct s = .next t) :
    NotYetUpdated t := by
  cases executes_of_exec_next h
  exact ⟨by simpa using hv, by simp, by simp [hv]⟩

/-- R32: no command but CONSTRUCT, UPDATE and TUPDATE writes ACC or TLAST, and CONSTRUCT sets both to 0. -/
theorem NotYetUpdated.of_exec (hs : NotYetUpdated s) (hi : i ≠ .update ∧ ∀ m, i ≠ .tupdate m)
    (h : exec i s = .next t) : NotYetUpdated t := by
  by_cases hc : i = .construct
  · subst hc
    exact notYetUpdated_of_construct hs.hasVelocity h
  · obtain ⟨hdec, _, _, _, _, _, _, htlast, _, _, _, hcfg⟩ := onlyTheListedCommandsWriteAnElement i s t h
    obtain ⟨_, hacc, _⟩ := hdec hc hi.1 hi.2
    exact ⟨hcfg ▸ hs.hasVelocity, hacc.trans hs.acc, (htlast hc hi.2).trans hs.tlast⟩

theorem vel_of_construct (hv : s.cfg.hasVelocity = true) (h : exec .construct s = .next t) :
    t.vel = 0x00000000 := by
  cases executes_of_exec_next h
  simp [hv]

/-- R32: a VEL of 0.0 is kept by every command but TUPDATE and DECAY. -/
theorem vel_zero_of_exec (hs : s.vel = 0x00000000) (ht : ∀ m, i ≠ .tupdate m) (hd : i ≠ .decay)
    (h : exec i s = .next t) : t.vel = 0x00000000 := by
  by_cases hc : i = .construct
  · subst hc
    cases executes_of_exec_next h
    simp [hs]
  · obtain ⟨_, _, _, hvel, _⟩ := onlyTheListedCommandsWriteAnElement i s t h
    exact (hvel hc ht hd).trans hs

/-- R205 (2): the first TUPDATE is quiet. -/
theorem exec_tupdate_of_notYetUpdated (hs : NotYetUpdated s) (hl : s.live = true) :
    exec (.tupdate n) s = .next ((afterQuiet s).writeTlast n) := by
  have hlt := (natAbs_sumNow_of_acc_eq_zero hs.acc).2
  exact exec_tupdate_of_quiet hs.hasVelocity hl (decoderStep_quiet (sumNow_in_range hlt.le) hlt.ne) rfl

/-- Settles O56: until the TUPDATE nothing moves ACC or TLAST from 0, so its sum is at most 1. -/
theorem firstTupdateIsQuiet : Obligations.FirstTupdateIsQuiet := by
  unfold Obligations.FirstTupdateIsQuiet
  intro s t u is p n hc hv his hrun hl
  have hu : NotYetUpdated u :=
    commands_keep (fun i hi _ _ hs h => hs.of_exec (his i hi) h) (notYetUpdated_of_construct hv hc) hrun
  refine ⟨hu.tlast, fun hdec => ?_, _, exec_tupdate_of_notYetUpdated ⟨hu.hasVelocity, hu.acc, hu.tlast⟩ hl, rfl,
    ?_, rfl, rfl⟩
  · exact commands_keep (P := fun s => s.vel = 0x00000000)
      (fun i hi _ _ hs h => vel_zero_of_exec hs (his i hi).2 (fun h => hdec (h ▸ hi)) h) (vel_of_construct hv hc) hrun
  · obtain ⟨h1, hlt⟩ := natAbs_sumNow_of_acc_eq_zero (s := { u with pins := p }) hu.acc
    exact (congrArg Int.natAbs (toInt_acc_afterQuiet (sumNow_in_range hlt.le))).trans_le h1

end Sys2Proof.Machine

/-! PROOF of O13 to O15 and O26 to O28: the other commands of unit DEC, and BORROWINNER (spec/40_decoder.md R100 to R102,
R110 to R112, spec/41_velocity.md R147). -/

namespace Sys2Proof.Machine

variable {s t : State}

/-- R100: CONSTRUCT writes every element that exists; without unit VT its five do not. -/
theorem exec_construct (hl : s.live = false) :
    exec .construct s = .next
      (if s.cfg.hasVelocity then
        { s with hist := 0x00, acc := 0, dir := .none, sens := .default, live := true, vel := 0x00000000,
                 incf := 0x3E4CCCCD, decf := 0x3C23D70A, win := 25, tlast := 0 }
       else { s with hist := 0x00, acc := 0, dir := .none, sens := .default, live := true }) :=
  whenNotLive_of_not_live hl

theorem exec_release (hl : s.live = true) : exec .release s = .next { s with live := false } := whenLive_of_live hl

/-- R101: CONSTRUCT after RELEASE is CONSTRUCT of the same elements while LIVE = 0. -/
theorem release_andThen_construct (hl : s.live = true) :
    andThen (exec .release s) (exec .construct) = exec .construct { s with live := false } := by
  rw [exec_release hl, andThen_next]

/-- Settles O13, by the two rules for CONSTRUCT. -/
theorem constructWritesEveryElement : Obligations.ConstructWritesEveryElement := by
  unfold Obligations.ConstructWritesEveryElement
  exact ⟨fun s => ⟨exec_construct, whenNotLive_of_live⟩, fun arg => decode_append_of_ne_zero (i := .construct) rfl⟩

/-- Settles O14: CONSTRUCT's result does not depend on the elements it writes. -/
theorem reconstructionForgetsTheOldState : Obligations.ReconstructionForgetsTheOldState := by
  unfold Obligations.ReconstructionForgetsTheOldState
  intro s h a d m v i f w t hl
  rw [release_andThen_construct hl]
  refine ⟨exec_construct rfl, ?_, fun hv => ?_⟩
  · rw [exec_construct rfl, exec_construct rfl]
  · rw [exec_construct rfl, exec_construct rfl]
    simp only [hv, if_true]

/-- R102: a legal SETSENS. -/
theorem exec_setsens {mag : BitVec 3} {m : Sensitivity} (hl : s.live = true) (hm : sensitivityOf mag = some m) :
    exec (.setsens mag) s = .next { s with sens := m } := by
  rw [exec, execSetsens, hm]
  exact whenLive_of_live hl

/-- Settles O15: 2 and 4 are the magnitudes SETSENS finds a sensitivity for. -/
theorem setsensWritesOnlySens : Obligations.SetsensWritesOnlySens := by
  unfold Obligations.SetsensWritesOnlySens
  refine ⟨fun s => ⟨fun hl => ⟨exec_setsens hl rfl, exec_setsens hl rfl⟩, fun hl => ⟨?_, ?_⟩,
    otherMagnitudesAreRefused s⟩, fun arg h => ?_⟩
  · exact nothingButConstructRunsWhileNotLive s (.setsens 2) hl rfl (.inr rfl) nofun
  · exact nothingButConstructRunsWhileNotLive s (.setsens 4) hl rfl (.inr rfl) nofun
  · exact decode_append_of_not_fits (i := .setsens 0) (mt (extractLsb'_high_eq_zero_iff (n := 61) rfl arg).2 h)

/-- Settles O26: the response is the code of DIR (R84). -/
theorem getdirRespondsAndClearsNothing : Obligations.GetdirRespondsAndClearsNothing := by
  unfold Obligations.GetdirRespondsAndClearsNothing
  refine ⟨fun s => ⟨fun hl => ?_, fun hl => ?_⟩, fun arg => decode_append_of_ne_zero (i := .getdir) rfl⟩
  · intro v
    have hv : s.dir.code.setWidth 64 = v := by
      dsimp only [v]
      cases s.dir <;> rfl
    have hrun : exec .getdir s = .next (s.respond (s.dir.code.setWidth 64)) := whenLive_of_live hl
    rw [hrun, hv]
    rfl
  · exact nothingButConstructRunsWhileNotLive s .getdir hl rfl (.inr rfl) nofun

/-- Settles O27: past their guards the two borrows answer the state they were given. -/
theorem borrowsChangeNothing : Obligations.BorrowsChangeNothing := by
  unfold Obligations.BorrowsChangeNothing
  refine ⟨fun s => ⟨fun hl => ⟨whenLive_of_live hl, fun hv => ?_⟩, fun hl => ⟨?_, fun hv => ?_⟩, fun hv => ?_⟩,
    fun arg h => ⟨decode_append_of_ne_zero (i := .borrowpins) rfl h,
      decode_append_of_ne_zero (i := .borrowinner) rfl h⟩⟩
  · exact (whenVelocity_of_present hv).trans (whenLive_of_live hl)
  · exact nothingButConstructRunsWhileNotLive s .borrowpins hl rfl (.inr rfl) nofun
  · exact nothingButConstructRunsWhileNotLive s .borrowinner hl rfl (.inl hv) nofun
  · exact exec_velocity_of_absent hv rfl

/-- R112: a RELEASE that answers a next state cleared LIVE. -/
theorem eq_of_exec_release (h : exec .release s = .next t) : t = { s with live := false } := by
  cases executes_of_exec_next h
  rfl

/-- Settles O28: RELEASE leaves LIVE = 0, with which CONSTRUCT runs and the other commands are refused. -/
theorem releaseClearsOnlyLive : Obligations.ReleaseClearsOnlyLive := by
  unfold Obligations.ReleaseClearsOnlyLive
  refine ⟨fun s => ⟨exec_release, fun hl => ?_⟩, fun s t i h hwf hunit hne => ?_, fun s t h => ?_,
    fun arg => decode_append_of_ne_zero (i := .release) rfl⟩
  · exact nothingButConstructRunsWhileNotLive s .release hl rfl (.inr rfl) nofun
  · rw [eq_of_exec_release h]
    exact nothingButConstructRunsWhileNotLive _ i rfl hwf hunit hne
  · rw [eq_of_exec_release h]
    exact exec_construct rfl

end Sys2Proof.Machine

/-! PROOF of O31, O32 and O34: TUPDATE without an event, with one, and with a timestamp before TLAST
(spec/41_velocity.md R134 to R138, spec/60_exceptions.md R174). -/

namespace Sys2Proof.Machine

variable {s : State} {t : Millis}

/-- Settles O31: the inner UPDATE is quiet, so the timestamp is recorded. -/
theorem quietTupdateRecordsItsTimestamp : Obligations.QuietTupdateRecordsItsTimestamp := by
  unfold Obligations.QuietTupdateRecordsItsTimestamp
  intro s t hv hl hlo hhi hne
  exact exec_tupdate_of_quiet hv hl (decoderStep_quiet ⟨hlo, hhi⟩ hne) rfl

/-- R136: an event outside the window, or with VEL at 1.0, keeps VEL and TLAST. -/
theorem velocityStep_of_not_due (hd : s.dir ≠ .none) (hs : s.cfg.strict = false ∨ s.tlast.toNat ≤ t.toNat)
    (hi : incrementDue t s = false) : velocityStep t s = .next s := by
  rcases velocityStep_cases t s with ⟨hn, _⟩ | ⟨_, hstrict, hlt, _⟩ | ⟨_, _, hdue, _⟩ | ⟨_, _, _, h⟩
  · exact absurd hn hd
  · rcases hs with hs | hs
    · simp [hs] at hstrict
    · omega
  · simp [hi] at hdue
  · exact h

/-- R134, R136: a TUPDATE with an event and no increment due. -/
theorem exec_tupdate_of_not_due (hv : s.cfg.hasVelocity = true) (hl : s.live = true)
    (he : (sumNow s).natAbs = threshold s.sens) (hs : s.cfg.strict = false ∨ s.tlast.toNat ≤ t.toNat)
    (hi : incrementDue t s = false) : exec (.tupdate t) s = .next (afterEvent s) := by
  rw [exec_tupdate hv hl, decoderStep_event he, andThen_next]
  exact velocityStep_of_not_due afterEvent_dir_ne_none hs hi

theorem incrementedVel_of_legal (h : legalFactor s.incf = true) :
    incrementedVel s = clampHi (fadd s.draw s.vel s.incf) := if_pos h

/-- Settles O32: an increment is due exactly when both tests hold. -/
theorem eventTupdateRaisesVelocityInsideTheWindow : Obligations.EventTupdateRaisesVelocityInsideTheWindow := by
  unfold Obligations.EventTupdateRaisesVelocityInsideTheWindow
  intro s t hv hl he hs u e sum
  refine ⟨fun hdue hf => ?_, fun hdue => ?_⟩
  · rw [exec_tupdate_of_due hv hl he hs (incrementDue_iff.2 hdue), incrementedVel_of_legal hf]
    rfl
  · exact exec_tupdate_of_not_due hv hl he hs (Bool.eq_false_iff.2 (mt incrementDue_iff.1 hdue))

/-- R138: a timestamp before TLAST has an elapsed time of at least 2^64 - TLAST, outside every window up to that. -/
theorem incrementDue_of_backwards (hb : t.toNat < s.tlast.toNat) (hwin : s.win.toNat ≤ 2 ^ 64 - s.tlast.toNat) :
    incrementDue t s = false := by
  rw [Bool.eq_false_iff, Ne, incrementDue_iff]
  rintro ⟨hlt, _⟩
  have ht := s.tlast.isLt
  rw [Nat.mod_eq_of_lt (by omega)] at hlt
  omega

/-- R174: the model outcome of a timestamp before TLAST on the event branch. -/
theorem velocityStep_faults (hd : s.dir ≠ .none) (hs : s.cfg.strict = true) (hb : t.toNat < s.tlast.toNat) :
    velocityStep t s = .fault .timeBackwards := by
  rw [velocityStep, if_neg hd, if_pos (by simp [hs, hb])]

/-- Settles O34: after the event a strict machine faults, and in another one no increment is due. -/
theorem backwardTimestampHasAHugeElapsedTime : Obligations.BackwardTimestampHasAHugeElapsedTime := by
  unfold Obligations.BackwardTimestampHasAHugeElapsedTime
  intro s t hv hl he hb
  refine ⟨fun hs => ?_, fun hs hwin => ?_⟩
  · rw [exec_tupdate hv hl, decoderStep_event he, andThen_next]
    exact velocityStep_faults afterEvent_dir_ne_none hs hb
  · exact exec_tupdate_of_not_due hv hl he (.inl hs) (incrementDue_of_backwards hb hwin)

end Sys2Proof.Machine

/-! PROOF of O36, O38 and O39: DECAY, the setters and GETVEL (spec/41_velocity.md R139, R142 to R146). -/

namespace Sys2Proof.Machine

variable {s : State} {i : Instr} {k : Host.Outcome State Fault Refusal}

/-- R82 (2), (6): both guards of a VT command passed. -/
theorem whenVelocity_whenLive (hv : s.cfg.hasVelocity = true) (hl : s.live = true) :
    whenVelocity s (whenLive s k) = k :=
  (whenVelocity_of_present hv).trans (whenLive_of_live hl)

/-- R82 (6): with the unit present, a VT command asks for LIVE next. -/
theorem exec_velocity_of_not_live (hv : s.cfg.hasVelocity = true) (hl : s.live = false)
    (hi : i.needsVelocity = true) : exec i s = .refused .notLive := by
  cases i with
  | construct | update | setsens | getdir | borrowpins | release => cases hi
  | borrowinner | tupdate | decay | setinc | setdec | setwin | getvel =>
    exact (whenVelocity_of_present hv).trans (whenLive_of_not_live hl)

theorem decayedVel_of_legal (h : legalFactor s.decf = true) :
    decayedVel s = clampLo (fsub s.draw s.vel s.decf) := if_pos h

/-- Settles O36: DECAY writes the value it computes, the clamped difference. -/
theorem decaySubtractsAndClampsAtZero : Obligations.DecaySubtractsAndClampsAtZero := by
  unfold Obligations.DecaySubtractsAndClampsAtZero
  refine ⟨fun s => ⟨fun hv hl => ?_, fun hv => exec_velocity_of_absent hv rfl,
    fun hv hl => exec_velocity_of_not_live hv hl rfl⟩, fun arg => decode_append_of_ne_zero (i := .decay) rfl⟩
  intro v hf
  rw [exec_decay hv hl, decayedVel_of_legal hf]
  rfl

/-- R142 to R144: past their guards the setters write their element. -/
theorem exec_setters (hv : s.cfg.hasVelocity = true) (hl : s.live = true) (f : F32) (ms : Millis) :
    exec (.setinc f) s = .next (s.writeIncf f) ∧ exec (.setdec f) s = .next (s.writeDecf f) ∧
      exec (.setwin ms) s = .next (s.writeWin ms) :=
  ⟨whenVelocity_whenLive hv hl, whenVelocity_whenLive hv hl, whenVelocity_whenLive hv hl⟩

/-- Settles O38: the setters write any operand, a word of format F with a bit above the pattern does not fit, and the
words of the three commands are their encodings. -/
theorem settersStoreAnyOperand : Obligations.SettersStoreAnyOperand := by
  unfold Obligations.SettersStoreAnyOperand
  refine ⟨fun s f ms => ⟨fun hv hl => exec_setters hv hl f ms, fun hv => ?_, fun hv hl => ?_⟩, fun arg h => ?_,
    fun f => ?_, fun ms => decodeOfEncodeIsTheCommand (.setwin ms)⟩
  · exact ⟨exec_velocity_of_absent hv rfl, exec_velocity_of_absent hv rfl, exec_velocity_of_absent hv rfl⟩
  · exact ⟨exec_velocity_of_not_live hv hl rfl, exec_velocity_of_not_live hv hl rfl,
      exec_velocity_of_not_live hv hl rfl⟩
  · have hfit : ¬ arg.toNat < 2 ^ 32 := mt (extractLsb'_high_eq_zero_iff rfl arg).2 h
    exact ⟨decode_append_of_not_fits (i := .setinc 0) hfit, decode_append_of_not_fits (i := .setdec 0) hfit⟩
  · exact ⟨decodeOfEncodeIsTheCommand (.setinc f), decodeOfEncodeIsTheCommand (.setdec f)⟩

/-- Settles O39: the response is VEL with zeros put above it (R84). -/
theorem getvelRespondsWithThePattern : Obligations.GetvelRespondsWithThePattern := by
  unfold Obligations.GetvelRespondsWithThePattern
  refine ⟨fun s => ⟨fun hv hl => ?_, fun hv => exec_velocity_of_absent hv rfl,
    fun hv hl => exec_velocity_of_not_live hv hl rfl⟩, fun arg => decode_append_of_ne_zero (i := .getvel) rfl⟩
  have hrun : exec .getvel s = .next (s.respond (s.vel.setWidth 64)) := whenVelocity_whenLive hv hl
  have hzext : s.vel.setWidth 64 = 0x00000000#32 ++ s.vel := BitVec.setWidth_eq_append (by decide)
  rw [hrun, hzext]
  rfl

end Sys2Proof.Machine

/-! PROOF of O40, O42 and O43: legal factors, comparison and clamps on patterns (spec/41_velocity.md R131 to R133). -/

namespace Sys2Proof.Machine

variable {x y : F32}

/-- Settles O40: the numbers that are not negative are those with sign 0, and negative zero. -/
theorem legalFactorsAreThesePatterns : Obligations.LegalFactorsAreThesePatterns := by
  unfold Obligations.LegalFactorsAreThesePatterns
  intro f
  constructor
  · intro h
    obtain ⟨hn, hpos⟩ := legalFactor_iff.1 h
    refine (fSign_eq_false_or_eq_negZero hpos).imp_left fun hs => ?_
    have hmod := (isNaN_eq_false_iff f).1 hn
    have hlt := fSign_eq_false_iff.1 hs
    omega
  · rintro (h | rfl)
    · refine legalFactor_iff.2 ⟨isNaN_of_le h, ?_⟩
      rw [fVal_of_fSign_false (fSign_of_le f h)]
      exact Int.natCast_nonneg _
    · decide

/-- R131: a pattern read as sign and magnitude. -/
def signMagnitude (x : F32) : Int :=
  if x.msb then -((x.toNat % 2 ^ 31 : Nat) : Int) else ((x.toNat % 2 ^ 31 : Nat) : Int)

/-- Values are ordered as patterns read as sign and magnitude. -/
theorem fVal_lt_iff (hx : isNaN x = false) (hy : isNaN y = false) :
    fVal x < fVal y ↔ signMagnitude x < signMagnitude y := by
  have hxy := fMag_lt_iff x y hx hy
  have hyx := fMag_lt_iff y x hy hx
  have hx0 := fMag_eq_zero x
  have hy0 := fMag_eq_zero y
  unfold fVal signMagnitude fSign
  cases x.msb <;> cases y.msb <;> simp only [Bool.false_eq_true, if_false, if_true] <;> omega

/-- Settles O42: on numbers the order of the values is the order of the patterns. -/
theorem comparisonIsSignMagnitudeOrder : Obligations.ComparisonIsSignMagnitudeOrder := by
  unfold Obligations.ComparisonIsSignMagnitudeOrder
  intro x y key
  refine ⟨?_, rfl⟩
  rw [flt, Bool.and_eq_true, Bool.and_eq_true, Bool.not_eq_true', Bool.not_eq_true', decide_eq_true_iff, and_assoc]
  exact and_congr_right fun hx => and_congr_right fun hy => fVal_lt_iff hx hy

/-- R133: the ceiling is cut at exactly when the number is past it. -/
theorem clampHi_cases (x : F32) : (fgt x f1 = true ∧ clampHi x = f1) ∨ (fgt x f1 = false ∧ clampHi x = x) := by
  unfold clampHi
  cases fgt x f1 <;> simp

/-- R133: the floor is cut at exactly when the number is past it. -/
theorem clampLo_cases (x : F32) : (flt x f0 = true ∧ clampLo x = f0) ∨ (flt x f0 = false ∧ clampLo x = x) := by
  unfold clampLo
  cases flt x f0 <;> simp

/-- Settles O43: a clamp gives its bound, which is not past itself, or its argument where that is not past it. -/
theorem clampsCutAtOneAndAtZero : Obligations.ClampsCutAtOneAndAtZero := by
  unfold Obligations.ClampsCutAtOneAndAtZero
  intro x
  obtain ⟨hhi, hhi'⟩ : fgt (clampHi x) f1 = false ∧ (clampHi x = x ∨ (clampHi x = f1 ∧ fgt x f1 = true)) := by
    rcases clampHi_cases x with ⟨hgt, hc⟩ | ⟨hgt, hc⟩ <;> rw [hc]
    · exact ⟨by decide, .inr ⟨rfl, hgt⟩⟩
    · exact ⟨hgt, .inl rfl⟩
  obtain ⟨hlo, hlo'⟩ : flt (clampLo x) f0 = false ∧ (clampLo x = x ∨ (clampLo x = f0 ∧ flt x f0 = true)) := by
    rcases clampLo_cases x with ⟨hlt, hc⟩ | ⟨hlt, hc⟩ <;> rw [hc]
    · exact ⟨by decide, .inr ⟨rfl, hlt⟩⟩
    · exact ⟨hlt, .inl rfl⟩
  exact ⟨hhi, hlo, hhi', hlo'⟩

end Sys2Proof.Machine

/-! PROOF of O44 and O46: the default increments reach 1.0, and repeated decays reach 0.0 (spec/41_velocity.md R141). -/

namespace Sys2Proof.Machine

variable {s : State} {x y : F32} {m : Nat}

/-- R141 (d): one increment by 0.2, as the rounded sum of magnitudes cut at 1.0. -/
theorem incrementedVel_of_f0p2 (hi : s.incf = f0p2) (hv : s.vel = x) (hx : velBound x = true)
    (hsum : min (roundMag (fMag x + fMag f0p2)) 0x3F800000 = y.toNat) : incrementedVel s = y := by
  refine BitVec.eq_of_toNat_eq ?_
  rw [toNat_incrementedVel (hv ▸ hx) (hi ▸ by decide), hv, hi, hsum]

/-- At 1.0 no event increments (R136). -/
theorem incrementDue_of_f1 (hv : s.vel = f1) (t : Millis) : incrementDue t s = false := by
  rw [incrementDue, hv, show flt f1 f1 = false by decide, Bool.and_false]

/-- Settles O44: each link by computing one rounded sum. -/
theorem defaultIncrementChain : Obligations.DefaultIncrementChain := by
  unfold Obligations.DefaultIncrementChain
  intro s hi
  refine ⟨fun hv => ?_, fun hv => ?_, fun hv => ?_, fun hv => ?_, fun hv => ?_, incrementDue_of_f1⟩ <;>
    exact incrementedVel_of_f0p2 hi hv (by decide) (by decide)

/-- The gap between a number and the next one is a unit in the last place of the smaller. -/
theorem fMag_succ (hx : x.toNat < 2 ^ 31) (hxy : x.toNat = y.toNat + 1) : fMag x = fMag y + 2 ^ (fExp y - 1) := by
  have hxf := toNat_mod_eq_fields x
  have hyf := toNat_mod_eq_fields y
  have hxl := fFrac_lt x
  have hyl := fFrac_lt y
  rw [Nat.mod_eq_of_lt (by omega)] at hxf hyf
  by_cases hcarry : fFrac y = 2 ^ 23 - 1
  · have he : fExp x = fExp y + 1 := by omega
    have hf : fFrac x = 0 := by omega
    rw [fMag, fMag, he, hf, if_neg (by omega), Nat.add_sub_cancel]
    split
    · next h0 => rw [h0]; omega
    · next h0 =>
      have hp : 2 ^ fExp y = 2 * 2 ^ (fExp y - 1) := by rw [← pow_succ', Nat.sub_add_cancel (by omega)]
      rw [hp, hcarry]
      omega
  · have he : fExp x = fExp y := by omega
    have hf : fFrac x = fFrac y + 1 := by omega
    rw [fMag, fMag, he, hf]
    split
    · next h0 => rw [h0]; rfl
    · ring

/-- Below 1.0 the next number is at most 2^-24 away. -/
theorem fMag_le_pred_add (hx : x.toNat ≤ 0x3F800000) (hxy : x.toNat = y.toNat + 1) :
    fMag x ≤ fMag y + 2 ^ 125 := by
  have hyf := toNat_mod_eq_fields y
  rw [Nat.mod_eq_of_lt (by omega)] at hyf
  rw [fMag_succ (by omega) hxy]
  exact Nat.add_le_add_left (Nat.pow_le_pow_right (by decide) (by omega)) _

/-- A factor of at least 2^-24 is at least 2^125 units. -/
theorem le_fMag_of_legalFactor (hf : legalFactor y = true) (hge : 0x33800000 ≤ y.toNat) (hz : y ≠ 0x80000000) :
    2 ^ 125 ≤ fMag y := by
  have hle : y.toNat ≤ 0x7F800000 := ((legalFactorsAreThesePatterns y).1 hf).resolve_right hz
  have hlt := (fMag_lt_iff y 0x33800000 (isNaN_of_le hle) (by decide)).not.2
    (by rw [Nat.mod_eq_of_lt (by omega)]; exact Nat.not_lt.2 hge)
  exact Nat.le_of_not_lt hlt

/-- R141 (f): a decay of at least 2^-24 goes down by at least one pattern. -/
theorem decayedVel_le_pred (hv : velBound s.vel = true) (hf : legalFactor s.decf = true)
    (hd : 2 ^ 125 ≤ fMag s.decf) : (decayedVel s).toNat ≤ s.vel.toNat - 1 := by
  have hle := velBound_iff.1 hv
  obtain h0 | ⟨y, hy⟩ : s.vel.toNat = 0 ∨ ∃ y : F32, s.vel.toNat = y.toNat + 1 := by
    refine Nat.eq_zero_or_pos _ |>.imp_right fun hpos => ⟨BitVec.ofNat 32 (s.vel.toNat - 1), ?_⟩
    rw [toNat_pattern _ (by omega)]
    omega
  · have hmono := decayedVel_le hv hf
    omega
  · have hgap := fMag_le_pred_add hle hy
    calc (decayedVel s).toNat = roundMag (fMag s.vel - fMag s.decf) := toNat_decayedVel hv hf
      _ ≤ roundMag (fMag y) := roundMag_mono (by omega)
      _ = s.vel.toNat - 1 := by rw [roundMag_fMag_of_lt (by omega), hy, Nat.add_sub_cancel]

/-- R141 (f): as many decays as VEL's pattern reach 0.0, and further ones hold it. -/
theorem repeated_decay_reaches_zero (hu : s.cfg.hasVelocity = true) (hl : s.live = true)
    (hf : legalFactor s.decf = true) (hd : 2 ^ 125 ≤ fMag s.decf) (hv : velBound s.vel = true)
    (hm : s.vel.toNat ≤ m) : ∃ t, repeated .decay m s = .next t ∧ t.vel = 0x00000000 := by
  induction m generalizing s with
  | zero => exact ⟨s, rfl, BitVec.eq_of_toNat_eq (Nat.le_zero.1 hm)⟩
  | succ m ih =>
    have hpred := decayedVel_le_pred hv hf hd
    rw [repeated, exec_decay hu hl, andThen_next]
    exact ih (s := s.writeVel (decayedVel s)) hu hl hf hd (velBound_decayedVel hv hf)
      (show (decayedVel s).toNat ≤ m by omega)

/-- Settles O46: the number of decays is VEL's pattern. -/
theorem decayReachesZeroAndStays : Obligations.DecayReachesZeroAndStays := by
  unfold Obligations.DecayReachesZeroAndStays
  intro s hu hl hv hf hge hz
  exact ⟨s.vel.toNat, fun m => repeated_decay_reaches_zero hu hl hf (le_fMag_of_legalFactor hf hge hz) hv⟩

end Sys2Proof.Machine

/-! PROOF of O41: sums are rounded to the nearest number, ties to even (spec/41_velocity.md R131). -/

namespace Sys2Proof.Machine

variable {r x y c : F32} {v : Int} {n : Nat}

theorem isNaN_of_isInf (h : isInf x = true) : isNaN x = false := by
  rw [isNaN_eq_false_iff, (isInf_eq_true_iff x).1 h]

/-- There is one infinity of each sign. -/
theorem eq_of_isInf (hx : isInf x = true) (hy : isInf y = true) (hs : fSign x = fSign y) : x = y := by
  have hxm := (isInf_eq_true_iff x).1 hx
  have hym := (isInf_eq_true_iff y).1 hy
  rw [toNat_mod_eq_fields] at hxm hym
  refine BitVec.eq_of_toNat_eq ?_
  rw [toNat_eq_fields x, toNat_eq_fields y, hs]
  omega

/-! ### Each branch of the sum -/

/-- A NaN operand, or infinities of opposite sign: the sum is a NaN made of the draw. -/
theorem fadd_of_invalid (h : isNaN x = true ∨ isNaN y = true ∨ (isInf x = true ∧ isInf y = true ∧ x ≠ y)) :
    fadd r x y = asNaN r := by
  rcases h with hx | hy | ⟨hx, hy, hne⟩
  · simp [fadd, hx]
  · simp [fadd, hy]
  · simp [fadd, isNaN_of_isInf hx, isNaN_of_isInf hy, hx, hy, mt (eq_of_isInf hx hy) hne]

/-- An infinite first operand is the sum, unless the second one makes it a NaN. -/
theorem fadd_of_isInf_left (hx : isInf x = true) (hy : isNaN y = false) (hxy : isInf y = true → y = x) :
    fadd r x y = x := by
  have hs : (isInf y && (fSign x != fSign y)) = false := by
    cases hi : isInf y with
    | false => rfl
    | true => simp [hxy hi]
  rw [fadd, isNaN_of_isInf hx, hy, hx, hs]
  rfl

/-- An infinite second operand is the sum with a first one that is finite. -/
theorem fadd_isInf_of_finite (hx : isNaN x = false) (hix : isInf x = false) (hy : isInf y = true) : fadd r x y = y := by
  simp [fadd, hx, hix, isNaN_of_isInf hy, hy]

/-- A zero sum of two operands with the sign bit is one of two negative zeros. -/
theorem fSign_and_iff_of_sum_eq_zero (h0 : fVal x + fVal y = 0) :
    (fSign x && fSign y) = true ↔ x = 0x80000000 ∧ y = 0x80000000 := by
  constructor
  · intro hs
    obtain ⟨hsx, hsy⟩ := Bool.and_eq_true_iff.1 hs
    have hx : fVal x = -fMag x := if_pos hsx
    have hy : fVal y = -fMag y := if_pos hsy
    exact ⟨(fSign_eq_false_or_eq_negZero (by omega)).resolve_left (by simp [hsx]),
      (fSign_eq_false_or_eq_negZero (by omega)).resolve_left (by simp [hsy])⟩
  · rintro ⟨rfl, rfl⟩
    rfl

/-- The sum of two finite numbers is the exact one rounded, or a zero. -/
theorem fadd_of_finite (hx : isNaN x = false) (hix : isInf x = false) (hy : isNaN y = false) (hiy : isInf y = false) :
    fadd r x y = if fVal x + fVal y = 0 then (if x = 0x80000000 ∧ y = 0x80000000 then 0x80000000 else 0x00000000)
      else roundUnits (fVal x + fVal y) := by
  rw [fadd, hx, hy, hix, hiy]
  simp only [Bool.or_self, Bool.false_eq_true, if_false]
  refine ite_congr rfl (fun h0 => ?_) fun _ => rfl
  exact if_congr (fSign_and_iff_of_sum_eq_zero h0) rfl rfl

/-! ### The rounded value -/

theorem isInf_roundUnits_iff (v : Int) : isInf (roundUnits v) = true ↔ (2 ^ 25 - 1) * 2 ^ 252 ≤ v.natAbs := by
  have hle := roundMag_le_inf v.natAbs
  rw [← roundMag_eq_inf_iff, isInf_eq_true_iff, toNat_roundUnits]
  split <;> omega

/-- The magnitude does not look at the sign bit. -/
theorem fMag_congr (h : x.toNat % 2 ^ 31 = y.toNat % 2 ^ 31) : fMag x = fMag y := by
  have hx := fFrac_lt x
  have hy := fFrac_lt y
  rw [toNat_mod_eq_fields, toNat_mod_eq_fields] at h
  have he : fExp x = fExp y := by omega
  have hf : fFrac x = fFrac y := by omega
  rw [fMag, fMag, he, hf]

theorem fMag_ofNat_mod (c : F32) : fMag (BitVec.ofNat 32 (c.toNat % 2 ^ 31)) = fMag c := by
  refine fMag_congr ?_
  rw [BitVec.toNat_ofNat]
  omega

/-- The rounded magnitude is nearest to `n` among numbers of both signs: one below 0 is farther than 0 is. -/
theorem roundMag_nearest_of_int {k : Int} (hr : roundMag n < 0x7F800000) (hc : c.toNat % 2 ^ 31 < 0x7F800000)
    (hk : k.natAbs = fMag c) :
    (fMag (BitVec.ofNat 32 (roundMag n)) - n : Int).natAbs ≤ (k - n).natAbs ∧
      ((k - n).natAbs = (fMag (BitVec.ofNat 32 (roundMag n)) - n : Int).natAbs →
        k ≠ fMag (BitVec.ofNat 32 (roundMag n)) → roundMag n % 2 = 0) := by
  have hnear := roundMag_nearest n (c.toNat % 2 ^ 31) hc.le hr hc
  have hzero := roundMag_nearest n 0 (by decide) hr (by decide)
  rw [fMag_ofNat_mod, ← hk] at hnear
  rw [show fMag (BitVec.ofNat 32 0) = 0 from rfl] at hzero
  dsimp only at hnear hzero
  omega

/-- R131: no finite number is nearer to `v` than the rounded one, and one equally near means an even pattern. -/
theorem roundUnits_nearest (hz : isInf (roundUnits v) = false) (hn : isNaN c = false) (hi : isInf c = false) :
    (fVal (roundUnits v) - v).natAbs ≤ (fVal c - v).natAbs ∧
      ((fVal c - v).natAbs = (fVal (roundUnits v) - v).natAbs → fVal c ≠ fVal (roundUnits v) →
        (roundUnits v).toNat % 2 = 0) := by
  have hr : roundMag v.natAbs < 0x7F800000 := by
    rw [Bool.eq_false_iff, Ne, isInf_roundUnits_iff, ← roundMag_eq_inf_iff] at hz
    exact lt_of_le_of_ne (roundMag_le_inf _) hz
  have hc : c.toNat % 2 ^ 31 < 0x7F800000 := by
    rw [Bool.eq_false_iff, Ne, isInf_eq_true_iff] at hi
    exact lt_of_le_of_ne ((isNaN_eq_false_iff c).1 hn) hi
  have hk : (fVal c).natAbs = fMag c := by
    unfold fVal
    split <;> simp
  rw [fVal_roundUnits, toNat_roundUnits]
  split
  · have h := roundMag_nearest_of_int (k := -fVal c) hr hc (by rw [Int.natAbs_neg, hk])
    omega
  · have h := roundMag_nearest_of_int hr hc hk
    omega

/-- What R131 says of the sum `z` of two finite numbers whose exact sum is `v`, but for the sign of a zero. -/
structure RoundedSum (z : F32) (v : Int) : Prop where
  not_nan : isNaN z = false
  inf_iff : isInf z = true ↔ (2 ^ 25 - 1) * 2 ^ 252 ≤ v.natAbs
  inf_sign : isInf z = true → z = if 0 < v then 0x7F800000 else 0xFF800000
  nearest : isInf z = false → ∀ c : F32, isNaN c = false → isInf c = false →
    (fVal z - v).natAbs ≤ (fVal c - v).natAbs ∧
      ((fVal c - v).natAbs = (fVal z - v).natAbs → fVal c ≠ fVal z → z.toNat % 2 = 0)

theorem roundedSum_roundUnits (v : Int) : RoundedSum (roundUnits v) v where
  not_nan := isNaN_roundUnits v
  inf_iff := isInf_roundUnits_iff v
  inf_sign := roundUnits_of_isInf
  nearest hz _ := roundUnits_nearest hz

/-- The positive zero is 0 rounded, and the negative one has the same value and parity. -/
theorem roundedSum_zero (hz : x = 0x00000000 ∨ x = 0x80000000) : RoundedSum x 0 := by
  rcases hz with rfl | rfl
  · exact roundedSum_roundUnits 0
  · exact ⟨by decide, by decide, by decide, fun _ _ _ _ => ⟨Nat.zero_le _, fun _ _ => rfl⟩⟩

theorem roundedSum_fadd (hx : isNaN x = false) (hix : isInf x = false) (hy : isNaN y = false) (hiy : isInf y = false) :
    RoundedSum (fadd r x y) (fVal x + fVal y) := by
  rw [fadd_of_finite hx hix hy hiy]
  split
  · next h0 =>
    rw [h0]
    exact roundedSum_zero (by split <;> simp)
  · exact roundedSum_roundUnits _

/-- Settles O41: the branches of the sum one by one; a finite sum is the exact one rounded, and a NaN is the draw's. -/
theorem sumsAreRoundedToNearestEven : Obligations.SumsAreRoundedToNearestEven := by
  unfold Obligations.SumsAreRoundedToNearestEven
  intro r x y v z
  refine ⟨fun hx hix hy hiy => ?_, fun hbad => ⟨?_, fun n hn => ⟨n, ?_⟩⟩, fadd_of_isInf_left,
    fun hiy hx hix => fadd_isInf_of_finite hx hix hiy, rfl, fVal_fneg y⟩
  · have hsum : RoundedSum z v := roundedSum_fadd hx hix hy hiy
    exact ⟨hsum.not_nan, hsum.inf_iff, hsum.inf_sign, hsum.nearest,
      fun h0 => (fadd_of_finite hx hix hy hiy).trans (if_pos h0)⟩
  · rw [show z = asNaN r from fadd_of_invalid hbad]
    exact isNaN_asNaN r
  · rw [fadd_of_invalid hbad, asNaN_of_isNaN hn]

end Sys2Proof.Machine

/-! PROOF of O50 and O12: a machine that does what the hardware does never faults, and a refused command leaves no trace
(spec/60_exceptions.md R170, R173, R174). -/

namespace Sys2Proof.Machine

variable {s s' : State} {w : CommandWord} {p : Pins} {rest : List Input} {i : Instr} {r : Fault}

/-- R174: both faults are raised only where the configuration asks for them. -/
theorem exec_ne_fault_of_not_strict (hs : s.cfg.strict = false) : exec i s ≠ .fault r :=
  fun h => Bool.false_ne_true (hs.symm.trans (exec_fault_cases h).1)

/-- Settles O50: no command faults, and a step faults only by the command it runs, which finds the configuration the step
found. -/
theorem hardwareNeverFaults : Obligations.HardwareNeverFaults := by
  unfold Obligations.HardwareNeverFaults
  refine fun s hs => ⟨fun i r => exec_ne_fault_of_not_strict hs, fun r h => ?_⟩
  obtain ⟨w, p, rest, i, -, -, hf⟩ := step_fault_cases h
  exact exec_ne_fault_of_not_strict (s := s.present p rest) hs hf

/-- R60, R70: presenting a command overwrites the pins, the inputs and the response port, so the step does not see what
they were. -/
theorem step_eq_of_present_eq (hin : s.inputs = .command w p :: rest) (hin' : s'.inputs = .command w p :: rest)
    (hpres : s'.present p rest = s.present p rest) : step s' = step s := by
  cases hd : decode w with
  | ok i => rw [step_command_ok hin hd, step_command_ok hin' hd, hpres]
  | error e =>
    have hcfg : s'.cfg = s.cfg := by simpa using congrArg State.cfg hpres
    rw [step_command_error hin hd, step_command_error hin' hd, hcfg]

/-- R172: nor do the ports show what they were, whether the command is executed or refused. -/
theorem portStep_eq_of_present_eq (hin : s.inputs = .command w p :: rest) (hin' : s'.inputs = .command w p :: rest)
    (hpres : s'.present p rest = s.present p rest) : portStep s' = portStep s := by
  have hignore : ignoreCommand s' = ignoreCommand s := by simp only [ignoreCommand, hin, hin', hpres]
  rw [portStep, portStep, step_eq_of_present_eq hin hin' hpres, hignore]

/-- Settles O12: the refused command changed only the pins and the response port, which the command after it
overwrites. -/
theorem refusedCommandLeavesNoTrace : Obligations.RefusedCommandLeavesNoTrace := by
  unfold Obligations.RefusedCommandLeavesNoTrace
  intro s w w' p p' rest r n hin href
  have hnext : portStep (s.present p (.command w' p' :: rest)) =
      portStep { s with inputs := .command w' p' :: rest } :=
    portStep_eq_of_present_eq rfl rfl rfl
  calc portRun (n + 2) s
      = andThen (portStep s) (portRun (n + 1)) := rfl
    _ = portRun (n + 1) (s.present p (.command w' p' :: rest)) := by rw [portStep_of_refused hin href, andThen_next]
    _ = andThen (portStep { s with inputs := .command w' p' :: rest }) (portRun n) := by rw [portRun, hnext]
    _ = portRun (n + 1) { s with inputs := .command w' p' :: rest } := rfl

end Sys2Proof.Machine
